-- ==== Sys2Proof/Word.lean ====
section
/-! DEFINITION. The word and operand types of the block (10_state.md R28, R32; 40_field_extractor.md R89, R90, R92). All are unsigned bit patterns. -/

namespace Sys2Proof

/-- One input byte (R28). -/
abbrev Byte := BitVec 8

/-- The 16-bit machine word, bit 0 the least significant (R8). -/
abbrev Word := BitVec 16

/-- A 4-bit field (R11 "Nibble"). -/
abbrev Nibble := BitVec 4

/-- The ordinal of one of 16 general-purpose registers of the external executor (R32, R90). -/
abbrev RegisterIndex := BitVec 4

/-- The N immediate, 0..15 (R32, R92). -/
abbrev Imm4 := BitVec 4

/-- The NN immediate, 0..255 (R32, R92). -/
abbrev Imm8 := BitVec 8

/-- The NNN operand, 0..4095 (R32, R89). -/
abbrev Address := BitVec 12

/-- The variant code on the `tag` output (R29). -/
abbrev Tag := BitVec 6

end Sys2Proof
end

