-- ==== Sys2Proof/Config.lean ====
section
/-! DEFINITION. The block's parameters (00_scope.md R7). The widths of R7 are the types of Word.lean, FAILURE_KINDS = 1 is the one
constructor of FailureKind, and the byte order is wordOf in Decode.lean. -/

namespace Sys2Proof.Config

/-- `VARIANT_COUNT` (R7, R31). -/
def variantCount : Nat := 35

/-- `FAIL_TAG`, what `tag` holds on a decode failure (R7, R29; decision D3 of the spec). -/
def failTag : Tag := 63#6

/-- The values named for `on_decode_failure`, what the external loop does after a failure (R205,
92_eei_decisions.md D18). The spec's list is open-ended, hence `other`. -/
inductive OnDecodeFailure where
  | halt
  | skip
  | report
  | other (policy : Nat)
  deriving DecidableEq, Repr, Inhabited

/-- What an external fetch stage may do on an odd fetch address (R43, 92_eei_decisions.md D12). The spec names no closed
list, hence `other`. -/
inductive FetchAlignment where
  | requires
  | wraps
  | faults
  | other (policy : Nat)
  deriving DecidableEq, Repr, Inhabited

/-- OPEN (R7): a parameter of the external loop, which never changes what the block outputs. No body, and no definition
of the block reads it (log entry 6). -/
opaque onDecodeFailure : OnDecodeFailure

/-- OPEN (R7): a parameter of the external fetch stage, "unused by the block". No body, and no definition of the block
reads it (log entry 6). -/
opaque fetchAlignment : FetchAlignment

end Sys2Proof.Config
end

