-- ==== Sys2Proof/Syntax.lean ====
section
/-! DEFINITION. The Instruction sum type (10_state.md R31): 35 variants, each carrying only the operands of the row of
30_encoding.md R64. -/

namespace Sys2Proof

/-- One constructor per row of 30_encoding.md R64 and spec/opcode_table.json, in tag order. -/
inductive Instr where
  /-- tag 0, `0..0` (R131) -/
  | clearScreen
  /-- tag 1, `0..E`, the spec's Return (R132) -/
  | ret
  /-- tag 2, `0NNN` with N neither 0x0 nor 0xE (R133) -/
  | sysAddr (nnn : Address)
  /-- tag 3, `1NNN` (R103) -/
  | jump (nnn : Address)
  /-- tag 4, `2NNN` (R104) -/
  | call (nnn : Address)
  /-- tag 5, `3XNN` (R105) -/
  | skipEqImm (x : RegisterIndex) (nn : Imm8)
  /-- tag 6, `4XNN` (R106) -/
  | skipNeImm (x : RegisterIndex) (nn : Imm8)
  /-- tag 7, `5XY?` (R107) -/
  | skipEqReg (x y : RegisterIndex)
  /-- tag 8, `6XNN` (R108) -/
  | loadImm (x : RegisterIndex) (nn : Imm8)
  /-- tag 9, `7XNN` (R109) -/
  | addImm (x : RegisterIndex) (nn : Imm8)
  /-- tag 10, `8XY0` (R141) -/
  | move (x y : RegisterIndex)
  /-- tag 11, `8XY1` (R142) -/
  | or (x y : RegisterIndex)
  /-- tag 12, `8XY2` (R143) -/
  | and (x y : RegisterIndex)
  /-- tag 13, `8XY3` (R144) -/
  | xor (x y : RegisterIndex)
  /-- tag 14, `8XY4` (R145) -/
  | addReg (x y : RegisterIndex)
  /-- tag 15, `8XY5` (R146) -/
  | sub (x y : RegisterIndex)
  /-- tag 16, `8XY6`; y is carried (R147, D8) -/
  | shiftRight (x y : RegisterIndex)
  /-- tag 17, `8XY7` (R148) -/
  | subReverse (x y : RegisterIndex)
  /-- tag 18, `8XYE`; y is carried (R149, D8) -/
  | shiftLeft (x y : RegisterIndex)
  /-- tag 19, `9XY?` (R110) -/
  | skipNeReg (x y : RegisterIndex)
  /-- tag 20, `ANNN` (R111) -/
  | loadIndex (nnn : Address)
  /-- tag 21, `BNNN` (R112) -/
  | jumpOffset (nnn : Address)
  /-- tag 22, `CXNN` (R113) -/
  | random (x : RegisterIndex) (nn : Imm8)
  /-- tag 23, `DXYN` (R114) -/
  | draw (x y : RegisterIndex) (n : Imm4)
  /-- tag 24, `EX9E` (R161) -/
  | skipKeyPressed (x : RegisterIndex)
  /-- tag 25, `EXA1` (R162) -/
  | skipKeyNotPressed (x : RegisterIndex)
  /-- tag 26, `FX07` (R171) -/
  | loadDelay (x : RegisterIndex)
  /-- tag 27, `FX0A` (R172) -/
  | waitKey (x : RegisterIndex)
  /-- tag 28, `FX15` (R173) -/
  | setDelay (x : RegisterIndex)
  /-- tag 29, `FX18` (R174) -/
  | setSound (x : RegisterIndex)
  /-- tag 30, `FX1E` (R175) -/
  | addIndex (x : RegisterIndex)
  /-- tag 31, `FX29` (R176) -/
  | loadFont (x : RegisterIndex)
  /-- tag 32, `FX33` (R177) -/
  | storeBcd (x : RegisterIndex)
  /-- tag 33, `FX55` (R178) -/
  | storeRegs (x : RegisterIndex)
  /-- tag 34, `FX65` (R179) -/
  | loadRegs (x : RegisterIndex)
  deriving DecidableEq, Repr

end Sys2Proof
end

