-- ==== Sys2Proof/WellFormed.lean ====
section
/-! DEFINITION. Which terms of Instr are values the decoder can give. The operand types already hold every width of 10_state.md
R32; the one condition left is SysAddr's (42_group0.md R133). -/

namespace Sys2Proof

/-- A SysAddr's low nibble "is therefore never 0x0 or 0xE" (R133); every other variant takes every operand value. -/
def Instr.wellFormed : Instr → Bool
  | .sysAddr nnn => nnn.extractLsb' 0 4 != 0x0#4 && nnn.extractLsb' 0 4 != 0xE#4
  | .clearScreen | .ret => true
  | .jump _ | .call _ | .loadIndex _ | .jumpOffset _ => true
  | .skipEqImm _ _ | .skipNeImm _ _ | .loadImm _ _ | .addImm _ _ | .random _ _ => true
  | .skipEqReg _ _ | .skipNeReg _ _ => true
  | .move _ _ | .or _ _ | .and _ _ | .xor _ _ | .addReg _ _ | .sub _ _ | .shiftRight _ _ | .subReverse _ _
  | .shiftLeft _ _ => true
  | .draw _ _ _ => true
  | .skipKeyPressed _ | .skipKeyNotPressed _ => true
  | .loadDelay _ | .waitKey _ | .setDelay _ | .setSound _ | .addIndex _ | .loadFont _ | .storeBcd _ | .storeRegs _
  | .loadRegs _ => true

end Sys2Proof
end

