-- ==== Sys2Proof/Decode.lean ====
section
/-! DEFINITION. The block itself: the field extractor (40_field_extractor.md), the value-type constructors, the opcode
classifier (41_primary_dispatch.md to 45_groupF.md), the opcode map as mask and match rows (30_encoding.md), and the
encoder written from the same map. -/

namespace Sys2Proof

/-! The results of a decode. -/

/-- The error taxonomy: "a single kind" (R200). -/
inductive FailureKind where
  /-- "unrecognized instruction encoding" -/
  | unrecognizedInstructionEncoding
  deriving DecidableEq, Repr

/-- The decode failure, carrying the whole word that failed (R200, R202). -/
structure DecodeFailure where
  word : Word
  deriving DecidableEq, Repr

/-- Every failure is of the one kind (R200). -/
def DecodeFailure.kind (_ : DecodeFailure) : FailureKind := .unrecognizedInstructionEncoding

/-- The numeric code of a kind: code 0 "and no other code exists" (R200). -/
def FailureKind.causeCode : FailureKind → Nat
  | .unrecognizedInstructionEncoding => 0

/-- `Result = Ok(Instruction) | Err(DecodeFailure)` (R31). -/
inductive DecodeResult where
  | ok (i : Instr)
  | err (f : DecodeFailure)
  deriving DecidableEq, Repr

/-- The variant names of R64, without operands. -/
inductive Variant where
  | clearScreen | ret | sysAddr
  | jump | call | skipEqImm | skipNeImm | skipEqReg | loadImm | addImm
  | move | or | and | xor | addReg | sub | shiftRight | subReverse | shiftLeft
  | skipNeReg | loadIndex | jumpOffset | random | draw
  | skipKeyPressed | skipKeyNotPressed
  | loadDelay | waitKey | setDelay | setSound | addIndex | loadFont | storeBcd | storeRegs | loadRegs
  deriving DecidableEq, Repr

/-- The variant an instruction is a value of (R31). -/
def Instr.variant : Instr → Variant
  | .clearScreen => .clearScreen
  | .ret => .ret
  | .sysAddr _ => .sysAddr
  | .jump _ => .jump
  | .call _ => .call
  | .skipEqImm _ _ => .skipEqImm
  | .skipNeImm _ _ => .skipNeImm
  | .skipEqReg _ _ => .skipEqReg
  | .loadImm _ _ => .loadImm
  | .addImm _ _ => .addImm
  | .move _ _ => .move
  | .or _ _ => .or
  | .and _ _ => .and
  | .xor _ _ => .xor
  | .addReg _ _ => .addReg
  | .sub _ _ => .sub
  | .shiftRight _ _ => .shiftRight
  | .subReverse _ _ => .subReverse
  | .shiftLeft _ _ => .shiftLeft
  | .skipNeReg _ _ => .skipNeReg
  | .loadIndex _ => .loadIndex
  | .jumpOffset _ => .jumpOffset
  | .random _ _ => .random
  | .draw _ _ _ => .draw
  | .skipKeyPressed _ => .skipKeyPressed
  | .skipKeyNotPressed _ => .skipKeyNotPressed
  | .loadDelay _ => .loadDelay
  | .waitKey _ => .waitKey
  | .setDelay _ => .setDelay
  | .setSound _ => .setSound
  | .addIndex _ => .addIndex
  | .loadFont _ => .loadFont
  | .storeBcd _ => .storeBcd
  | .storeRegs _ => .storeRegs
  | .loadRegs _ => .loadRegs

/-- The variant of a result, `none` for a failure: "no partial operands", no variant (R204). -/
def DecodeResult.variant? : DecodeResult → Option Variant
  | .ok i => some i.variant
  | .err _ => none

/-! Byte order. -/

/-- `w = byte0 ++ byte1`, big-endian (R40). -/
def wordOf (byte0 byte1 : Byte) : Word := byte0 ++ byte1

/-- A byte from its two nibbles, the more significant first. -/
def byteOf (hi lo : Nibble) : Byte := hi ++ lo

/-- A 12-bit value from a nibble and a byte, the nibble in the more significant position (R63). -/
def addressOf (hi : Nibble) (lo : Byte) : Address := hi ++ lo

/-- The byte at the lower address, the most significant of the word (R40). -/
def byte0Of (w : Word) : Byte := w.extractLsb' 8 8

/-- The byte at the higher address (R40). -/
def byte1Of (w : Word) : Byte := w.extractLsb' 0 8

/-! The field extractor: fixed selections of the two bytes (R80 to R87). -/

/-- `lead = byte0[7:4]` (R81). -/
def leadField (byte0 : Byte) : Nibble := byte0.extractLsb' 4 4

/-- `X = byte0[3:0]` (R82). -/
def xField (byte0 : Byte) : Nibble := byte0.extractLsb' 0 4

/-- `Y = byte1[7:4]` (R83). -/
def yField (byte1 : Byte) : Nibble := byte1.extractLsb' 4 4

/-- `N = byte1[3:0]` (R84). -/
def nField (byte1 : Byte) : Nibble := byte1.extractLsb' 0 4

/-- `NN = byte1[7:0]` (R85). -/
def nnField (byte1 : Byte) : Imm8 := byte1

/-- `NNN = byte0[3:0] ++ byte1[7:0]` (R86). -/
def nnnField (byte0 byte1 : Byte) : BitVec 12 := addressOf (xField byte0) byte1

/-! The value-type constructors. -/

/-- `Address(v) = v & 0xFFF`, for any unsigned value: wider inputs are truncated, not rejected (R89). -/
def mkAddress (v : Nat) : Address := BitVec.ofNat 12 (v &&& 0xFFF)

/-- `RegisterIndex(v) = v & 0xF` (R90). -/
def mkRegisterIndex (v : Nat) : RegisterIndex := BitVec.ofNat 4 (v &&& 0xF)

/-! The operands as the classifier carries them (R63, R101). -/

/-- `X = RegisterIndex(w[11:8])`. -/
def xOperand (byte0 : Byte) : RegisterIndex := mkRegisterIndex (xField byte0).toNat

/-- `Y = RegisterIndex(w[7:4])`. -/
def yOperand (byte1 : Byte) : RegisterIndex := mkRegisterIndex (yField byte1).toNat

/-- `A = Address(w[11:0])`. -/
def aOperand (byte0 byte1 : Byte) : Address := mkAddress (nnnField byte0 byte1).toNat

/-! The opcode classifier. -/

/-- Group 0x0, on N; it has no failure arm (R130, R134). -/
def decodeGroup0 (b0 b1 : Byte) : DecodeResult :=
  match nField b1 with
  | 0x0#4 => .ok .clearScreen
  | 0xE#4 => .ok .ret
  | _ => .ok (.sysAddr (aOperand b0 b1))

/-- Group 0x8, on N: nine defined values, and the failure arm for {8,9,A,B,C,D,F} (R140, R150). -/
def decodeGroup8 (b0 b1 : Byte) : DecodeResult :=
  match nField b1 with
  | 0x0#4 => .ok (.move (xOperand b0) (yOperand b1))
  | 0x1#4 => .ok (.or (xOperand b0) (yOperand b1))
  | 0x2#4 => .ok (.and (xOperand b0) (yOperand b1))
  | 0x3#4 => .ok (.xor (xOperand b0) (yOperand b1))
  | 0x4#4 => .ok (.addReg (xOperand b0) (yOperand b1))
  | 0x5#4 => .ok (.sub (xOperand b0) (yOperand b1))
  | 0x6#4 => .ok (.shiftRight (xOperand b0) (yOperand b1))
  | 0x7#4 => .ok (.subReverse (xOperand b0) (yOperand b1))
  | 0xE#4 => .ok (.shiftLeft (xOperand b0) (yOperand b1))
  | _ => .err ⟨wordOf b0 b1⟩

/-- Group 0xE, on NN: two defined values, and the failure arm (R160, R163). -/
def decodeGroupE (b0 b1 : Byte) : DecodeResult :=
  match nnField b1 with
  | 0x9E#8 => .ok (.skipKeyPressed (xOperand b0))
  | 0xA1#8 => .ok (.skipKeyNotPressed (xOperand b0))
  | _ => .err ⟨wordOf b0 b1⟩

/-- Group 0xF, on NN: nine defined values, and the failure arm (R170, R180). -/
def decodeGroupF (b0 b1 : Byte) : DecodeResult :=
  match nnField b1 with
  | 0x07#8 => .ok (.loadDelay (xOperand b0))
  | 0x0A#8 => .ok (.waitKey (xOperand b0))
  | 0x15#8 => .ok (.setDelay (xOperand b0))
  | 0x18#8 => .ok (.setSound (xOperand b0))
  | 0x1E#8 => .ok (.addIndex (xOperand b0))
  | 0x29#8 => .ok (.loadFont (xOperand b0))
  | 0x33#8 => .ok (.storeBcd (xOperand b0))
  | 0x55#8 => .ok (.storeRegs (xOperand b0))
  | 0x65#8 => .ok (.loadRegs (xOperand b0))
  | _ => .err ⟨wordOf b0 b1⟩

/-- The decode function (R101): the 16-way branch on the leading nibble. The last arm is the one remaining value, 0xF. -/
def decode (b0 b1 : Byte) : DecodeResult :=
  match leadField b0 with
  | 0x0#4 => decodeGroup0 b0 b1
  | 0x1#4 => .ok (.jump (aOperand b0 b1))
  | 0x2#4 => .ok (.call (aOperand b0 b1))
  | 0x3#4 => .ok (.skipEqImm (xOperand b0) (nnField b1))
  | 0x4#4 => .ok (.skipNeImm (xOperand b0) (nnField b1))
  | 0x5#4 => .ok (.skipEqReg (xOperand b0) (yOperand b1))
  | 0x6#4 => .ok (.loadImm (xOperand b0) (nnField b1))
  | 0x7#4 => .ok (.addImm (xOperand b0) (nnField b1))
  | 0x8#4 => decodeGroup8 b0 b1
  | 0x9#4 => .ok (.skipNeReg (xOperand b0) (yOperand b1))
  | 0xA#4 => .ok (.loadIndex (aOperand b0 b1))
  | 0xB#4 => .ok (.jumpOffset (aOperand b0 b1))
  | 0xC#4 => .ok (.random (xOperand b0) (nnField b1))
  | 0xD#4 => .ok (.draw (xOperand b0) (yOperand b1) (nField b1))
  | 0xE#4 => decodeGroupE b0 b1
  | _ => decodeGroupF b0 b1

/-- The decode of a 16-bit word, its two bytes taken in big-endian order (R40). -/
def decodeWord (w : Word) : DecodeResult := decode (byte0Of w) (byte1Of w)

/-- The host's question: what the decoder reads from an instruction whose bits are `w`, numbered as
spec/opcode_table.json numbers them. Every instruction is one word (R60), stored most significant byte first (R40). -/
def decodeTableWord (nbits w : Nat) : Option Instr :=
  match decodeWord (BitVec.ofNat 16 (w % 2 ^ nbits)) with
  | .ok i => some i
  | .err _ => none

/-! The encoder. -/

/-- The word of a format whose operand is NNN (R62 FA): `lead ++ NNN`. -/
def wordLeadNnn (lead : Nibble) (nnn : Address) : Word :=
  wordOf (byteOf lead (nnn.extractLsb' 8 4)) (nnn.extractLsb' 0 8)

/-- The word `lead ++ X ++ NN` (R61). -/
def wordLeadXNn (lead x : Nibble) (nn : Byte) : Word := wordOf (byteOf lead x) nn

/-- The word `lead ++ X ++ Y ++ N` (R61). -/
def wordLeadXYN (lead x y n : Nibble) : Word := wordOf (byteOf lead x) (byteOf y n)

/-- The word of an instruction, from the map of R64. The bits the decoder ignores (R68: X and Y of ClearScreen and
Return, N of SkipEqReg and SkipNeReg) are taken from `fill`; no other bit of `fill` is used. -/
def encodeWith (fill : Word) : Instr → Word
  | .clearScreen => wordLeadXYN 0x0#4 (fill.extractLsb' 8 4) (fill.extractLsb' 4 4) 0x0#4
  | .ret => wordLeadXYN 0x0#4 (fill.extractLsb' 8 4) (fill.extractLsb' 4 4) 0xE#4
  | .sysAddr nnn => wordLeadNnn 0x0#4 nnn
  | .jump nnn => wordLeadNnn 0x1#4 nnn
  | .call nnn => wordLeadNnn 0x2#4 nnn
  | .skipEqImm x nn => wordLeadXNn 0x3#4 x nn
  | .skipNeImm x nn => wordLeadXNn 0x4#4 x nn
  | .skipEqReg x y => wordLeadXYN 0x5#4 x y (fill.extractLsb' 0 4)
  | .loadImm x nn => wordLeadXNn 0x6#4 x nn
  | .addImm x nn => wordLeadXNn 0x7#4 x nn
  | .move x y => wordLeadXYN 0x8#4 x y 0x0#4
  | .or x y => wordLeadXYN 0x8#4 x y 0x1#4
  | .and x y => wordLeadXYN 0x8#4 x y 0x2#4
  | .xor x y => wordLeadXYN 0x8#4 x y 0x3#4
  | .addReg x y => wordLeadXYN 0x8#4 x y 0x4#4
  | .sub x y => wordLeadXYN 0x8#4 x y 0x5#4
  | .shiftRight x y => wordLeadXYN 0x8#4 x y 0x6#4
  | .subReverse x y => wordLeadXYN 0x8#4 x y 0x7#4
  | .shiftLeft x y => wordLeadXYN 0x8#4 x y 0xE#4
  | .skipNeReg x y => wordLeadXYN 0x9#4 x y (fill.extractLsb' 0 4)
  | .loadIndex nnn => wordLeadNnn 0xA#4 nnn
  | .jumpOffset nnn => wordLeadNnn 0xB#4 nnn
  | .random x nn => wordLeadXNn 0xC#4 x nn
  | .draw x y n => wordLeadXYN 0xD#4 x y n
  | .skipKeyPressed x => wordLeadXNn 0xE#4 x 0x9E#8
  | .skipKeyNotPressed x => wordLeadXNn 0xE#4 x 0xA1#8
  | .loadDelay x => wordLeadXNn 0xF#4 x 0x07#8
  | .waitKey x => wordLeadXNn 0xF#4 x 0x0A#8
  | .setDelay x => wordLeadXNn 0xF#4 x 0x15#8
  | .setSound x => wordLeadXNn 0xF#4 x 0x18#8
  | .addIndex x => wordLeadXNn 0xF#4 x 0x1E#8
  | .loadFont x => wordLeadXNn 0xF#4 x 0x29#8
  | .storeBcd x => wordLeadXNn 0xF#4 x 0x33#8
  | .storeRegs x => wordLeadXNn 0xF#4 x 0x55#8
  | .loadRegs x => wordLeadXNn 0xF#4 x 0x65#8

/-- The canonical word, ignored bits zero. DESIGN CHOICE (log entry 9). -/
def encode (i : Instr) : Word := encodeWith 0#16 i

/-! The opcode map as data: the machine-readable form of 30_encoding.md. -/

/-- One row: a word selects it when `w & mask == value` and it matches none of the `excludes` pairs (mask, value)
(30_encoding.md, "How to read opcode_table.json"). -/
structure OpcodeRow where
  variant : Variant
  mask : Word
  value : Word
  excludes : List (Word × Word)
  deriving DecidableEq, Repr

/-- Whether a word matches a mask and value pair. -/
def maskMatches (w mask value : Word) : Bool := w &&& mask == value

/-- Whether a word selects a row. -/
def OpcodeRow.selects (r : OpcodeRow) (w : Word) : Bool :=
  maskMatches w r.mask r.value && r.excludes.all fun e => !maskMatches w e.1 e.2

/-- Rows of the variants of 42_group0.md, from spec/opcode_table.json. -/
def opcodeRowsGroup0 : List OpcodeRow :=
  [⟨.clearScreen, 0xF00F#16, 0x0000#16, []⟩,
   ⟨.ret, 0xF00F#16, 0x000E#16, []⟩,
   ⟨.sysAddr, 0xF000#16, 0x0000#16, [(0xF00F#16, 0x0000#16), (0xF00F#16, 0x000E#16)]⟩]

/-- Rows of the variants of 41_primary_dispatch.md, from spec/opcode_table.json. -/
def opcodeRowsUnconditional : List OpcodeRow :=
  [⟨.jump, 0xF000#16, 0x1000#16, []⟩,
   ⟨.call, 0xF000#16, 0x2000#16, []⟩,
   ⟨.skipEqImm, 0xF000#16, 0x3000#16, []⟩,
   ⟨.skipNeImm, 0xF000#16, 0x4000#16, []⟩,
   ⟨.skipEqReg, 0xF000#16, 0x5000#16, []⟩,
   ⟨.loadImm, 0xF000#16, 0x6000#16, []⟩,
   ⟨.addImm, 0xF000#16, 0x7000#16, []⟩,
   ⟨.skipNeReg, 0xF000#16, 0x9000#16, []⟩,
   ⟨.loadIndex, 0xF000#16, 0xA000#16, []⟩,
   ⟨.jumpOffset, 0xF000#16, 0xB000#16, []⟩,
   ⟨.random, 0xF000#16, 0xC000#16, []⟩,
   ⟨.draw, 0xF000#16, 0xD000#16, []⟩]

/-- Rows of the variants of 43_group8.md, from spec/opcode_table.json. -/
def opcodeRowsGroup8 : List OpcodeRow :=
  [⟨.move, 0xF00F#16, 0x8000#16, []⟩,
   ⟨.or, 0xF00F#16, 0x8001#16, []⟩,
   ⟨.and, 0xF00F#16, 0x8002#16, []⟩,
   ⟨.xor, 0xF00F#16, 0x8003#16, []⟩,
   ⟨.addReg, 0xF00F#16, 0x8004#16, []⟩,
   ⟨.sub, 0xF00F#16, 0x8005#16, []⟩,
   ⟨.shiftRight, 0xF00F#16, 0x8006#16, []⟩,
   ⟨.subReverse, 0xF00F#16, 0x8007#16, []⟩,
   ⟨.shiftLeft, 0xF00F#16, 0x800E#16, []⟩]

/-- Rows of the variants of 44_groupE.md, from spec/opcode_table.json. -/
def opcodeRowsGroupE : List OpcodeRow :=
  [⟨.skipKeyPressed, 0xF0FF#16, 0xE09E#16, []⟩,
   ⟨.skipKeyNotPressed, 0xF0FF#16, 0xE0A1#16, []⟩]

/-- Rows of the variants of 45_groupF.md, from spec/opcode_table.json. -/
def opcodeRowsGroupF : List OpcodeRow :=
  [⟨.loadDelay, 0xF0FF#16, 0xF007#16, []⟩,
   ⟨.waitKey, 0xF0FF#16, 0xF00A#16, []⟩,
   ⟨.setDelay, 0xF0FF#16, 0xF015#16, []⟩,
   ⟨.setSound, 0xF0FF#16, 0xF018#16, []⟩,
   ⟨.addIndex, 0xF0FF#16, 0xF01E#16, []⟩,
   ⟨.loadFont, 0xF0FF#16, 0xF029#16, []⟩,
   ⟨.storeBcd, 0xF0FF#16, 0xF033#16, []⟩,
   ⟨.storeRegs, 0xF0FF#16, 0xF055#16, []⟩,
   ⟨.loadRegs, 0xF0FF#16, 0xF065#16, []⟩]

/-- The 35 rows of spec/opcode_table.json. -/
def opcodeTable : List OpcodeRow :=
  opcodeRowsGroup0 ++ opcodeRowsUnconditional ++ opcodeRowsGroup8 ++ opcodeRowsGroupE ++ opcodeRowsGroupF

end Sys2Proof
end

