-- ==== Sys2Proof/Machine/State.lean ====
section
/-! DEFINITION. What a step reads and drives. The block holds no architectural state (10_state.md R20 to R27): every field
is a signal of its interface (R28, R29, R31), but for `pending`, which is the environment's (log entries 1 and 3). -/

namespace Sys2Proof.Machine

/-- One word on the input ports, "in the order the external fetch stage read them" (R28). -/
structure InputWord where
  /-- the byte at the lower address, the most significant (R28, R40) -/
  byte0 : Byte
  /-- the byte at the higher address -/
  byte1 : Byte
  deriving DecidableEq, Repr

/-- The output ports (R29). `ok` is the 1-bit port, true for 1 (log entry 10). -/
structure Ports where
  ok : Bool
  tag : Tag
  fLead : Nibble
  fX : Nibble
  fY : Nibble
  fN : Nibble
  fNn : BitVec 8
  fNnn : BitVec 12
  deriving DecidableEq, Repr

/-- One instance of the block (R214) at its interface, with the words its environment will present. -/
structure State where
  /-- the bytes on the input ports (R28) -/
  input : InputWord
  /-- the model's own field: the words the external fetch stage is still to present, the next one first -/
  pending : List InputWord
  /-- the typed result (R31), primary by decision D16 of the spec -/
  result : DecodeResult
  /-- the output ports (R29) -/
  ports : Ports
  deriving DecidableEq, Repr

/-- Reasons for the machine to stop. There is none: the block's one exceptional outcome is a recoverable result value
(60_exceptions.md R203, R208), which a step answers as a next state (log entry 5). Nobody raises a fault. -/
inductive Fault where
  deriving DecidableEq, Repr

/-- Reasons for the model to give no meaning. -/
inductive Refusal where
  /-- An arm of exec without a meaning, by its mnemonic. No arm raises it in this model: safe. -/
  | notModelled (mnemonic : String)
  deriving DecidableEq, Repr

/-- The interface before any word is presented. The spec gives no bytes for the inputs at power-up: both are 0x00 (DESIGN
CHOICE, log entry 2). The outputs are "the decode of whatever bytes are on its inputs" (10_state.md R35, 70_reset_and_hazards.md R230),
the row V146 of 95_test_vectors.md. -/
def State.reset : State where
  input := ⟨0x00#8, 0x00#8⟩
  pending := []
  result := .ok .clearScreen
  ports :=
    { ok := true, tag := 0#6, fLead := 0x0#4, fX := 0x0#4, fY := 0x0#4, fN := 0x0#4, fNn := 0x00#8, fNnn := 0x000#12 }

end Sys2Proof.Machine
end

