-- ==== Sys2Proof/Machine/Flags.lean ====
section
/-! DEFINITION. The status outputs. The block has no flags and no condition codes and writes none (10_state.md R23); what it
drives beside the fields is `ok` and `tag` (R29). -/

namespace Sys2Proof.Machine

/-- The tag column of 30_encoding.md R64 (decision D3 of the spec). -/
def variantTag : Variant → Tag
  | .clearScreen => 0#6
  | .ret => 1#6
  | .sysAddr => 2#6
  | .jump => 3#6
  | .call => 4#6
  | .skipEqImm => 5#6
  | .skipNeImm => 6#6
  | .skipEqReg => 7#6
  | .loadImm => 8#6
  | .addImm => 9#6
  | .move => 10#6
  | .or => 11#6
  | .and => 12#6
  | .xor => 13#6
  | .addReg => 14#6
  | .sub => 15#6
  | .shiftRight => 16#6
  | .subReverse => 17#6
  | .shiftLeft => 18#6
  | .skipNeReg => 19#6
  | .loadIndex => 20#6
  | .jumpOffset => 21#6
  | .random => 22#6
  | .draw => 23#6
  | .skipKeyPressed => 24#6
  | .skipKeyNotPressed => 25#6
  | .loadDelay => 26#6
  | .waitKey => 27#6
  | .setDelay => 28#6
  | .setSound => 29#6
  | .addIndex => 30#6
  | .loadFont => 31#6
  | .storeBcd => 32#6
  | .storeRegs => 33#6
  | .loadRegs => 34#6

/-- The variant a tag stands for; "Tag values 35 to 62 are never driven" and 63 is the failure's (R30). -/
def variantOfTag (t : Tag) : Option Variant :=
  match t with
  | 0#6 => some .clearScreen
  | 1#6 => some .ret
  | 2#6 => some .sysAddr
  | 3#6 => some .jump
  | 4#6 => some .call
  | 5#6 => some .skipEqImm
  | 6#6 => some .skipNeImm
  | 7#6 => some .skipEqReg
  | 8#6 => some .loadImm
  | 9#6 => some .addImm
  | 10#6 => some .move
  | 11#6 => some .or
  | 12#6 => some .and
  | 13#6 => some .xor
  | 14#6 => some .addReg
  | 15#6 => some .sub
  | 16#6 => some .shiftRight
  | 17#6 => some .subReverse
  | 18#6 => some .shiftLeft
  | 19#6 => some .skipNeReg
  | 20#6 => some .loadIndex
  | 21#6 => some .jumpOffset
  | 22#6 => some .random
  | 23#6 => some .draw
  | 24#6 => some .skipKeyPressed
  | 25#6 => some .skipKeyNotPressed
  | 26#6 => some .loadDelay
  | 27#6 => some .waitKey
  | 28#6 => some .setDelay
  | 29#6 => some .setSound
  | 30#6 => some .addIndex
  | 31#6 => some .loadFont
  | 32#6 => some .storeBcd
  | 33#6 => some .storeRegs
  | 34#6 => some .loadRegs
  | _ => none

/-- `ok`: 1 when the word decodes to a variant, 0 on decode failure (R29). -/
def resultOk : DecodeResult → Bool
  | .ok _ => true
  | .err _ => false

/-- `tag`: the variant's tag when `ok = 1`, FAIL_TAG when `ok = 0` (R29). -/
def resultTag : DecodeResult → Tag
  | .ok i => variantTag i.variant
  | .err _ => Config.failTag

/-- All eight outputs for a result and the bytes on the inputs. The six fields "are driven for every word, including a word
that fails to decode" (R29). -/
def drivePorts (r : DecodeResult) (w : InputWord) : Ports where
  ok := resultOk r
  tag := resultTag r
  fLead := leadField w.byte0
  fX := xField w.byte0
  fY := yField w.byte1
  fN := nField w.byte1
  fNn := nnField w.byte1
  fNnn := nnnField w.byte0 w.byte1

end Sys2Proof.Machine
end

