-- ==== Sys2Proof/Machine/Operands.lean ====
section
/-! DEFINITION. Operands: the formats of 30_encoding.md R62, the operands each variant carries (R64) and where they come from
(R63), and the typed result read back from the port bundle (10_state.md R34). -/

namespace Sys2Proof.Machine

/-- One operand, of one of the four value types (10_state.md R32). -/
inductive Operand where
  | reg (r : RegisterIndex)
  | imm8 (v : Imm8)
  | imm4 (v : Imm4)
  | address (a : Address)
  deriving DecidableEq, Repr

/-- The seven operand shapes, under the spec's own labels (R62). -/
inductive Format where
  | F0 | FA | FXB | FXY | FXYS | FXYN | FXS
  deriving DecidableEq, Repr

/-- The format of each variant (R62). -/
def variantFormat : Variant → Format
  | .clearScreen => .F0
  | .ret => .F0
  | .sysAddr => .FA
  | .jump => .FA
  | .call => .FA
  | .loadIndex => .FA
  | .jumpOffset => .FA
  | .skipEqImm => .FXB
  | .skipNeImm => .FXB
  | .loadImm => .FXB
  | .addImm => .FXB
  | .random => .FXB
  | .skipEqReg => .FXY
  | .skipNeReg => .FXY
  | .move => .FXYS
  | .or => .FXYS
  | .and => .FXYS
  | .xor => .FXYS
  | .addReg => .FXYS
  | .sub => .FXYS
  | .shiftRight => .FXYS
  | .subReverse => .FXYS
  | .shiftLeft => .FXYS
  | .draw => .FXYN
  | .skipKeyPressed => .FXS
  | .skipKeyNotPressed => .FXS
  | .loadDelay => .FXS
  | .waitKey => .FXS
  | .setDelay => .FXS
  | .setSound => .FXS
  | .addIndex => .FXS
  | .loadFont => .FXS
  | .storeBcd => .FXS
  | .storeRegs => .FXS
  | .loadRegs => .FXS

/-- The operands a format carries, in the order of R64, taken from the field outputs (R62, R34). -/
def formatOperands (f : Format) (p : Ports) : List Operand :=
  match f with
  | .F0 => []
  | .FA => [.address p.fNnn]
  | .FXB => [.reg p.fX, .imm8 p.fNn]
  | .FXY | .FXYS => [.reg p.fX, .reg p.fY]
  | .FXYN => [.reg p.fX, .reg p.fY, .imm4 p.fN]
  | .FXS => [.reg p.fX]

/-- The operands an instruction value carries, in the order of R64. -/
def instrOperands : Instr → List Operand
  | .clearScreen => []
  | .ret => []
  | .sysAddr nnn => [.address nnn]
  | .jump nnn => [.address nnn]
  | .call nnn => [.address nnn]
  | .skipEqImm x nn => [.reg x, .imm8 nn]
  | .skipNeImm x nn => [.reg x, .imm8 nn]
  | .skipEqReg x y => [.reg x, .reg y]
  | .loadImm x nn => [.reg x, .imm8 nn]
  | .addImm x nn => [.reg x, .imm8 nn]
  | .move x y => [.reg x, .reg y]
  | .or x y => [.reg x, .reg y]
  | .and x y => [.reg x, .reg y]
  | .xor x y => [.reg x, .reg y]
  | .addReg x y => [.reg x, .reg y]
  | .sub x y => [.reg x, .reg y]
  | .shiftRight x y => [.reg x, .reg y]
  | .subReverse x y => [.reg x, .reg y]
  | .shiftLeft x y => [.reg x, .reg y]
  | .skipNeReg x y => [.reg x, .reg y]
  | .loadIndex nnn => [.address nnn]
  | .jumpOffset nnn => [.address nnn]
  | .random x nn => [.reg x, .imm8 nn]
  | .draw x y n => [.reg x, .reg y, .imm4 n]
  | .skipKeyPressed x => [.reg x]
  | .skipKeyNotPressed x => [.reg x]
  | .loadDelay x => [.reg x]
  | .waitKey x => [.reg x]
  | .setDelay x => [.reg x]
  | .setSound x => [.reg x]
  | .addIndex x => [.reg x]
  | .loadFont x => [.reg x]
  | .storeBcd x => [.reg x]
  | .storeRegs x => [.reg x]
  | .loadRegs x => [.reg x]

/-- The value of a variant whose operands are the field outputs (R34). -/
def assemble (v : Variant) (p : Ports) : Instr :=
  match v with
  | .clearScreen => .clearScreen
  | .ret => .ret
  | .sysAddr => .sysAddr p.fNnn
  | .jump => .jump p.fNnn
  | .call => .call p.fNnn
  | .skipEqImm => .skipEqImm p.fX p.fNn
  | .skipNeImm => .skipNeImm p.fX p.fNn
  | .skipEqReg => .skipEqReg p.fX p.fY
  | .loadImm => .loadImm p.fX p.fNn
  | .addImm => .addImm p.fX p.fNn
  | .move => .move p.fX p.fY
  | .or => .or p.fX p.fY
  | .and => .and p.fX p.fY
  | .xor => .xor p.fX p.fY
  | .addReg => .addReg p.fX p.fY
  | .sub => .sub p.fX p.fY
  | .shiftRight => .shiftRight p.fX p.fY
  | .subReverse => .subReverse p.fX p.fY
  | .shiftLeft => .shiftLeft p.fX p.fY
  | .skipNeReg => .skipNeReg p.fX p.fY
  | .loadIndex => .loadIndex p.fNnn
  | .jumpOffset => .jumpOffset p.fNnn
  | .random => .random p.fX p.fNn
  | .draw => .draw p.fX p.fY p.fN
  | .skipKeyPressed => .skipKeyPressed p.fX
  | .skipKeyNotPressed => .skipKeyNotPressed p.fX
  | .loadDelay => .loadDelay p.fX
  | .waitKey => .waitKey p.fX
  | .setDelay => .setDelay p.fX
  | .setSound => .setSound p.fX
  | .addIndex => .addIndex p.fX
  | .loadFont => .loadFont p.fX
  | .storeBcd => .storeBcd p.fX
  | .storeRegs => .storeRegs p.fX
  | .loadRegs => .loadRegs p.fX

/-- The typed result a port bundle stands for (R34, D16): with `ok = 1` the tag's variant over the fields, with `ok = 0` and
`tag = 63` the failure of the word `f_lead ++ f_nnn`; `none` for a pair (`ok`, `tag`) that is never driven (R30). -/
def typedOfPorts (p : Ports) : Option DecodeResult :=
  if p.ok then (variantOfTag p.tag).map fun v => .ok (assemble v p)
  else if p.tag = Config.failTag then some (.err ⟨p.fLead ++ p.fNnn⟩)
  else none

end Sys2Proof.Machine
end

