-- ==== Sys2Proof/Machine/Ops.lean ====
section
/-! DEFINITION. The shared operations of a step: presenting a word, driving the outputs, `emit` and the decode failure
(00_scope.md R9). The block has no register and no memory to operate on (10_state.md R20, 20_memory.md R44). -/

namespace Sys2Proof.Machine

/-- The word on the input ports at the next evaluation: the next pending one, or the bytes still there when the fetch
stage presents none (DESIGN CHOICE, log entry 3). -/
def State.nextInput (s : State) : InputWord :=
  match s.pending with
  | [] => s.input
  | w :: _ => w

/-- The fetch stage presents one word (70_reset_and_hazards.md R232); the outputs are not evaluated yet. -/
def State.present (s : State) : State :=
  { s with input := s.nextInput, pending := s.pending.tail }

/-- The outputs take a result and the fields of the word on the inputs; nothing else changes (10_state.md R29, R31). -/
def State.drive (s : State) (r : DecodeResult) : State :=
  { s with result := r, ports := drivePorts r s.input }

/-- `emit V(...)`: "the decode result is success with variant V carrying the listed operands" (00_scope.md R9). -/
def emit (i : Instr) (s : State) : Host.Outcome State Fault Refusal :=
  .next (s.drive (.ok i))

/-- `raise DecodeFailure(w)`: the decode result is the failure (00_scope.md R9, 60_exceptions.md R200). The block takes no
trap: nothing is saved and control goes nowhere (R208), so this is a next state. -/
def raiseDecodeFailure (f : DecodeFailure) (s : State) : Host.Outcome State Fault Refusal :=
  .next (s.drive (.err f))

/-- A 16-bit word as the bytes on the input ports, big-endian (20_memory.md R40). -/
def inputOfWord (w : Word) : InputWord := ⟨byte0Of w, byte1Of w⟩

/-- The word on the input ports (R28). -/
def InputWord.word (w : InputWord) : Word := wordOf w.byte0 w.byte1

/-- The words of a byte stream: "two consecutive bytes" at a time (20_memory.md R40). The block never receives a single byte
(R42), so a last byte without a partner is in no word. -/
def inputsOfBytes : List Byte → List InputWord
  | b0 :: b1 :: rest => ⟨b0, b1⟩ :: inputsOfBytes rest
  | [_] => []
  | [] => []

/-- The same instance with a byte stream to be presented, from its first byte on. -/
def State.withStream (s : State) (bytes : List Byte) : State :=
  { s with pending := inputsOfBytes bytes }

/-- A word placed so that it is the next one presented, in the place of the one that was. -/
def State.placeNextWord (s : State) (w : Word) : State :=
  { s with pending := inputOfWord w :: s.pending.tail }

end Sys2Proof.Machine
end

