-- ==== Sys2Proof/Machine/Group0.lean ====
section
/-! DEFINITION. The meanings of the variants of 42_group0.md: what the block emits for each. What an external executor does with
it is out of scope (00_scope.md R5). -/

namespace Sys2Proof.Machine

/-- ClearScreen: `emit ClearScreen()` (R131). -/
def execClearScreen (s : State) : Host.Outcome State Fault Refusal :=
  emit .clearScreen s

/-- Return: `emit Return()` (R132). -/
def execRet (s : State) : Host.Outcome State Fault Refusal :=
  emit .ret s

/-- SysAddr: `emit SysAddr(nnn)` (R133). The Address carries all twelve bits including N; it is a variant distinct from Jump (90_conflicts.md C7). -/
def execSysAddr (nnn : Address) (s : State) : Host.Outcome State Fault Refusal :=
  emit (.sysAddr nnn) s

end Sys2Proof.Machine
end

