-- ==== Sys2Proof/Machine/Group8.lean ====
section
/-! DEFINITION. The meanings of the variants of 43_group8.md: what the block emits for each. What an external executor does with
it is out of scope (00_scope.md R5). -/

namespace Sys2Proof.Machine

/-- Move: `emit Move(x, y)` (R141). -/
def execMove (x : RegisterIndex) (y : RegisterIndex) (s : State) : Host.Outcome State Fault Refusal :=
  emit (.move x y) s

/-- Or: `emit Or(x, y)` (R142). -/
def execOr (x : RegisterIndex) (y : RegisterIndex) (s : State) : Host.Outcome State Fault Refusal :=
  emit (.or x y) s

/-- And: `emit And(x, y)` (R143). -/
def execAnd (x : RegisterIndex) (y : RegisterIndex) (s : State) : Host.Outcome State Fault Refusal :=
  emit (.and x y) s

/-- Xor: `emit Xor(x, y)` (R144). -/
def execXor (x : RegisterIndex) (y : RegisterIndex) (s : State) : Host.Outcome State Fault Refusal :=
  emit (.xor x y) s

/-- AddReg: `emit AddReg(x, y)` (R145). The carry is the executor's; the decoder writes no flag. -/
def execAddReg (x : RegisterIndex) (y : RegisterIndex) (s : State) : Host.Outcome State Fault Refusal :=
  emit (.addReg x y) s

/-- Sub: `emit Sub(x, y)` (R146). -/
def execSub (x : RegisterIndex) (y : RegisterIndex) (s : State) : Host.Outcome State Fault Refusal :=
  emit (.sub x y) s

/-- ShiftRight: `emit ShiftRight(x, y)` (R147). y is carried (D8). -/
def execShiftRight (x : RegisterIndex) (y : RegisterIndex) (s : State) : Host.Outcome State Fault Refusal :=
  emit (.shiftRight x y) s

/-- SubReverse: `emit SubReverse(x, y)` (R148). -/
def execSubReverse (x : RegisterIndex) (y : RegisterIndex) (s : State) : Host.Outcome State Fault Refusal :=
  emit (.subReverse x y) s

/-- ShiftLeft: `emit ShiftLeft(x, y)` (R149). y is carried (D8). -/
def execShiftLeft (x : RegisterIndex) (y : RegisterIndex) (s : State) : Host.Outcome State Fault Refusal :=
  emit (.shiftLeft x y) s

end Sys2Proof.Machine
end

