-- ==== Sys2Proof/Machine/GroupE.lean ====
section
/-! DEFINITION. The meanings of the variants of 44_groupE.md: what the block emits for each. What an external executor does with
it is out of scope (00_scope.md R5). -/

namespace Sys2Proof.Machine

/-- SkipKeyPressed: `emit SkipKeyPressed(x)` (R161). -/
def execSkipKeyPressed (x : RegisterIndex) (s : State) : Host.Outcome State Fault Refusal :=
  emit (.skipKeyPressed x) s

/-- SkipKeyNotPressed: `emit SkipKeyNotPressed(x)` (R162). -/
def execSkipKeyNotPressed (x : RegisterIndex) (s : State) : Host.Outcome State Fault Refusal :=
  emit (.skipKeyNotPressed x) s

end Sys2Proof.Machine
end

