-- ==== Sys2Proof/Machine/GroupF.lean ====
section
/-! DEFINITION. The meanings of the variants of 45_groupF.md: what the block emits for each. What an external executor does with
it is out of scope (00_scope.md R5). -/

namespace Sys2Proof.Machine

/-- LoadDelay: `emit LoadDelay(x)` (R171). -/
def execLoadDelay (x : RegisterIndex) (s : State) : Host.Outcome State Fault Refusal :=
  emit (.loadDelay x) s

/-- WaitKey: `emit WaitKey(x)` (R172). The decoder does not wait. -/
def execWaitKey (x : RegisterIndex) (s : State) : Host.Outcome State Fault Refusal :=
  emit (.waitKey x) s

/-- SetDelay: `emit SetDelay(x)` (R173). -/
def execSetDelay (x : RegisterIndex) (s : State) : Host.Outcome State Fault Refusal :=
  emit (.setDelay x) s

/-- SetSound: `emit SetSound(x)` (R174). -/
def execSetSound (x : RegisterIndex) (s : State) : Host.Outcome State Fault Refusal :=
  emit (.setSound x) s

/-- AddIndex: `emit AddIndex(x)` (R175). -/
def execAddIndex (x : RegisterIndex) (s : State) : Host.Outcome State Fault Refusal :=
  emit (.addIndex x) s

/-- LoadFont: `emit LoadFont(x)` (R176). -/
def execLoadFont (x : RegisterIndex) (s : State) : Host.Outcome State Fault Refusal :=
  emit (.loadFont x) s

/-- StoreBcd: `emit StoreBcd(x)` (R177). -/
def execStoreBcd (x : RegisterIndex) (s : State) : Host.Outcome State Fault Refusal :=
  emit (.storeBcd x) s

/-- StoreRegs: `emit StoreRegs(x)` (R178). -/
def execStoreRegs (x : RegisterIndex) (s : State) : Host.Outcome State Fault Refusal :=
  emit (.storeRegs x) s

/-- LoadRegs: `emit LoadRegs(x)` (R179). -/
def execLoadRegs (x : RegisterIndex) (s : State) : Host.Outcome State Fault Refusal :=
  emit (.loadRegs x) s

end Sys2Proof.Machine
end

