-- ==== Sys2Proof/Machine/Unconditional.lean ====
section
/-! DEFINITION. The meanings of the variants of 41_primary_dispatch.md: what the block emits for each. What an external executor does with
it is out of scope (00_scope.md R5). -/

namespace Sys2Proof.Machine

/-- Jump: `emit Jump(nnn)` (R103). The target is not checked. -/
def execJump (nnn : Address) (s : State) : Host.Outcome State Fault Refusal :=
  emit (.jump nnn) s

/-- Call: `emit Call(nnn)` (R104). The decoder keeps no call stack. -/
def execCall (nnn : Address) (s : State) : Host.Outcome State Fault Refusal :=
  emit (.call nnn) s

/-- SkipEqImm: `emit SkipEqImm(x, nn)` (R105). -/
def execSkipEqImm (x : RegisterIndex) (nn : Imm8) (s : State) : Host.Outcome State Fault Refusal :=
  emit (.skipEqImm x nn) s

/-- SkipNeImm: `emit SkipNeImm(x, nn)` (R106). -/
def execSkipNeImm (x : RegisterIndex) (nn : Imm8) (s : State) : Host.Outcome State Fault Refusal :=
  emit (.skipNeImm x nn) s

/-- SkipEqReg: `emit SkipEqReg(x, y)` (R107). -/
def execSkipEqReg (x : RegisterIndex) (y : RegisterIndex) (s : State) : Host.Outcome State Fault Refusal :=
  emit (.skipEqReg x y) s

/-- LoadImm: `emit LoadImm(x, nn)` (R108). -/
def execLoadImm (x : RegisterIndex) (nn : Imm8) (s : State) : Host.Outcome State Fault Refusal :=
  emit (.loadImm x nn) s

/-- AddImm: `emit AddImm(x, nn)` (R109). The decoder computes no sum. -/
def execAddImm (x : RegisterIndex) (nn : Imm8) (s : State) : Host.Outcome State Fault Refusal :=
  emit (.addImm x nn) s

/-- SkipNeReg: `emit SkipNeReg(x, y)` (R110). -/
def execSkipNeReg (x : RegisterIndex) (y : RegisterIndex) (s : State) : Host.Outcome State Fault Refusal :=
  emit (.skipNeReg x y) s

/-- LoadIndex: `emit LoadIndex(nnn)` (R111). -/
def execLoadIndex (nnn : Address) (s : State) : Host.Outcome State Fault Refusal :=
  emit (.loadIndex nnn) s

/-- JumpOffset: `emit JumpOffset(nnn)` (R112). The decoder does not add any register to NNN. -/
def execJumpOffset (nnn : Address) (s : State) : Host.Outcome State Fault Refusal :=
  emit (.jumpOffset nnn) s

/-- Random: `emit Random(x, nn)` (R113). The decoder draws no random value. -/
def execRandom (x : RegisterIndex) (nn : Imm8) (s : State) : Host.Outcome State Fault Refusal :=
  emit (.random x nn) s

/-- Draw: `emit Draw(x, y, n)` (R114). -/
def execDraw (x : RegisterIndex) (y : RegisterIndex) (n : Imm4) (s : State) : Host.Outcome State Fault Refusal :=
  emit (.draw x y n) s

end Sys2Proof.Machine
end

