-- ==== Sys2Proof/Machine/Step.lean ====
section
/-! DEFINITION. One step is one evaluation (70_reset_and_hazards.md R234): a word is presented, decoded, and the outputs are
driven with its decode. -/

namespace Sys2Proof.Machine

/-- Present, decode, then the decoded variant's meaning or the decode failure. -/
def step (s : State) : Host.Outcome State Fault Refusal :=
  match decode s.nextInput.byte0 s.nextInput.byte1 with
  | .ok i => exec i s.present
  | .err f => raiseDecodeFailure f s.present

/-- The host's placement of one instruction: the next word the fetch stage presents. The program is loaded from outside the
block (20_memory.md R45; log entry 4). -/
def State.withFetchWord (s : State) (nbits w : Nat) : State :=
  s.placeNextWord (BitVec.ofNat 16 (w % 2 ^ nbits))

end Sys2Proof.Machine
end

