-- ==== Sys2Proof/Machine/Labels.lean ====
section
/-! DEFINITION. The mnemonic labels of 30_encoding.md R71 (decision D15 of the spec). Labels only: no output of the block
depends on them. -/

namespace Sys2Proof.Machine

/-- One hex digit. -/
def hexDigit (v : Nibble) : String :=
  match v.toNat with
  | 0 => "0" | 1 => "1" | 2 => "2" | 3 => "3" | 4 => "4" | 5 => "5" | 6 => "6" | 7 => "7"
  | 8 => "8" | 9 => "9" | 10 => "A" | 11 => "B" | 12 => "C" | 13 => "D" | 14 => "E" | _ => "F"

/-- A register, "printed as one hex digit" after V (R71). -/
def regLabel (r : RegisterIndex) : String := "V" ++ hexDigit r

/-- `nn` is two hex digits (R71), written with the prefix 0x as 95_test_vectors.md Part 3 writes it (log entry 14). -/
def imm8Label (v : Imm8) : String := "0x" ++ hexDigit (v.extractLsb' 4 4) ++ hexDigit (v.extractLsb' 0 4)

/-- `nnn` is three hex digits (R71), with the prefix 0x (log entry 14). -/
def addressLabel (a : Address) : String :=
  "0x" ++ hexDigit (a.extractLsb' 8 4) ++ hexDigit (a.extractLsb' 4 4) ++ hexDigit (a.extractLsb' 0 4)

/-- The syntax column of R71. -/
def instrLabel : Instr → String
  | .clearScreen => "CLS"
  | .ret => "RET"
  | .sysAddr nnn => "SYS " ++ addressLabel nnn
  | .jump nnn => "JP " ++ addressLabel nnn
  | .call nnn => "CALL " ++ addressLabel nnn
  | .skipEqImm x nn => "SE " ++ regLabel x ++ ", " ++ imm8Label nn
  | .skipNeImm x nn => "SNE " ++ regLabel x ++ ", " ++ imm8Label nn
  | .skipEqReg x y => "SE " ++ regLabel x ++ ", " ++ regLabel y
  | .loadImm x nn => "LD " ++ regLabel x ++ ", " ++ imm8Label nn
  | .addImm x nn => "ADD " ++ regLabel x ++ ", " ++ imm8Label nn
  | .move x y => "LD " ++ regLabel x ++ ", " ++ regLabel y
  | .or x y => "OR " ++ regLabel x ++ ", " ++ regLabel y
  | .and x y => "AND " ++ regLabel x ++ ", " ++ regLabel y
  | .xor x y => "XOR " ++ regLabel x ++ ", " ++ regLabel y
  | .addReg x y => "ADD " ++ regLabel x ++ ", " ++ regLabel y
  | .sub x y => "SUB " ++ regLabel x ++ ", " ++ regLabel y
  | .shiftRight x y => "SHR " ++ regLabel x ++ ", " ++ regLabel y
  | .subReverse x y => "SUBN " ++ regLabel x ++ ", " ++ regLabel y
  | .shiftLeft x y => "SHL " ++ regLabel x ++ ", " ++ regLabel y
  | .skipNeReg x y => "SNE " ++ regLabel x ++ ", " ++ regLabel y
  | .loadIndex nnn => "LD I, " ++ addressLabel nnn
  | .jumpOffset nnn => "JP V0, " ++ addressLabel nnn
  | .random x nn => "RND " ++ regLabel x ++ ", " ++ imm8Label nn
  | .draw x y n => "DRW " ++ regLabel x ++ ", " ++ regLabel y ++ ", " ++ hexDigit n
  | .skipKeyPressed x => "SKP " ++ regLabel x
  | .skipKeyNotPressed x => "SKNP " ++ regLabel x
  | .loadDelay x => "LD " ++ regLabel x ++ ", DT"
  | .waitKey x => "LD " ++ regLabel x ++ ", K"
  | .setDelay x => "LD DT, " ++ regLabel x
  | .setSound x => "LD ST, " ++ regLabel x
  | .addIndex x => "ADD I, " ++ regLabel x
  | .loadFont x => "LD F, " ++ regLabel x
  | .storeBcd x => "LD B, " ++ regLabel x
  | .storeRegs x => "LD [I], " ++ regLabel x
  | .loadRegs x => "LD " ++ regLabel x ++ ", [I]"

end Sys2Proof.Machine
end

