-- ==== Sys2Proof/Safety.lean ====
section
/-! DEFINITION. What the claims call a good outcome, a legal bundle of outputs and a settled interface. -/

namespace Sys2Proof.Machine

/-- An outcome that is a next state: the block "does not abort, assert, panic, hang" (60_exceptions.md R203). -/
def answersNext (o : Host.Outcome State Fault Refusal) : Prop := ∃ t, o = .next t

/-- The words that have no variant, exactly as 30_encoding.md R66 lists them, by lead, N and NN. -/
def illegal (b0 b1 : Byte) : Prop :=
  (leadField b0 = 0x8#4 ∧ nField b1 ∈ [0x8#4, 0x9#4, 0xA#4, 0xB#4, 0xC#4, 0xD#4, 0xF#4]) ∨
  (leadField b0 = 0xE#4 ∧ nnField b1 ∉ [0x9E#8, 0xA1#8]) ∨
  (leadField b0 = 0xF#4 ∧
    nnField b1 ∉ [0x07#8, 0x0A#8, 0x15#8, 0x18#8, 0x1E#8, 0x29#8, 0x33#8, 0x55#8, 0x65#8])

/-- The twelve nibbles whose leading nibble alone selects the variant (41_primary_dispatch.md R102; 90_conflicts.md C4). -/
def unconditionalNibbles : List Nibble :=
  [0x1#4, 0x2#4, 0x3#4, 0x4#4, 0x5#4, 0x6#4, 0x7#4, 0x9#4, 0xA#4, 0xB#4, 0xC#4, 0xD#4]

/-- A typed result the block can give: a well-formed instruction, or the failure of an illegal word. -/
def legalResult : DecodeResult → Prop
  | .ok i => i.wellFormed = true
  | .err f => illegal (byte0Of f.word) (byte1Of f.word)

/-- The pairs (`ok`, `tag`) the block drives: 35 variant codes or the failure code (10_state.md R30). -/
def legalOkTag (p : Ports) : Prop :=
  (p.ok = true ∧ p.tag.toNat < Config.variantCount) ∨ (p.ok = false ∧ p.tag = Config.failTag)

/-- The outputs are the decode of the bytes on the inputs (10_state.md R29, R35), the result is one the block can give, and
the pair (`ok`, `tag`) is one it drives. -/
def Settled (s : State) : Prop :=
  s.result = decode s.input.byte0 s.input.byte1 ∧ s.ports = drivePorts s.result s.input ∧
  legalResult s.result ∧ legalOkTag s.ports

/-- The state after `emit` of an instruction whose tag is `tag`, written out port by port (00_scope.md R9, 10_state.md R29):
the inputs and the words to come are as before. -/
def emitted (s : State) (i : Instr) (tag : Tag) : State where
  input := s.input
  pending := s.pending
  result := .ok i
  ports :=
    { ok := true, tag := tag,
      fLead := s.input.byte0.extractLsb' 4 4, fX := s.input.byte0.extractLsb' 0 4,
      fY := s.input.byte1.extractLsb' 4 4, fN := s.input.byte1.extractLsb' 0 4,
      fNn := s.input.byte1, fNnn := s.input.byte0.extractLsb' 0 4 ++ s.input.byte1 }

/-- The state after the decode failure of a word, written out port by port (60_exceptions.md R200, R202). -/
def failed (s : State) (word : Word) : State where
  input := s.input
  pending := s.pending
  result := .err ⟨word⟩
  ports :=
    { ok := false, tag := 63#6,
      fLead := s.input.byte0.extractLsb' 4 4, fX := s.input.byte0.extractLsb' 0 4,
      fY := s.input.byte1.extractLsb' 4 4, fN := s.input.byte1.extractLsb' 0 4,
      fNn := s.input.byte1, fNnn := s.input.byte0.extractLsb' 0 4 ++ s.input.byte1 }

end Sys2Proof.Machine
end

