-- ==== Sys2Proof/Certificates/Slice0/Obligations.lean ====
section
/-! DEFINITION. The statements for the provers. Each docstring names the rules of spec/ its statement rests on. -/

open Sys2Proof Sys2Proof.Machine

/-- 40_field_extractor.md R81 to R86: each field as a slice of its byte and as a constant shift and mask of the word. -/
def Obligations.FieldsAreConstantShiftsAndMasks : Prop :=
  ∀ b0 b1 : Byte,
  let w := (wordOf b0 b1).toNat
  ((leadField b0).toNat = b0.toNat / 16 ∧ (leadField b0).toNat = (w >>> 12) &&& 0xF) ∧
  ((xField b0).toNat = b0.toNat % 16 ∧ (xField b0).toNat = (w >>> 8) &&& 0xF) ∧
  ((yField b1).toNat = b1.toNat / 16 ∧ (yField b1).toNat = (w >>> 4) &&& 0xF) ∧
  ((nField b1).toNat = b1.toNat % 16 ∧ (nField b1).toNat = w &&& 0xF) ∧
  ((nnField b1).toNat = b1.toNat ∧ (nnField b1).toNat = w &&& 0xFF) ∧
  ((nnnField b0 b1).toNat = b0.toNat % 16 * 256 + b1.toNat ∧ (nnnField b0 b1).toNat = w &&& 0xFFF)

/-- 20_memory.md R40 and 40_field_extractor.md R88, which the spec marks as derived. -/
def Obligations.WordAssemblyAndFieldIdentities : Prop :=
  ∀ b0 b1 : Byte,
  (wordOf b0 b1).toNat = b0.toNat * 256 + b1.toNat ∧
  (nnField b1).toNat = (yField b1).toNat * 16 + (nField b1).toNat ∧
  (nnnField b0 b1).toNat = (xField b0).toNat * 256 + (nnField b1).toNat ∧
  (wordOf b0 b1).toNat = (leadField b0).toNat * 4096 + (nnnField b0 b1).toNat ∧
  (∀ c0 c1 : Byte, leadField b0 = leadField c0 → nnnField b0 b1 = nnnField c0 c1 → b0 = c0 ∧ b1 = c1)

/-- 40_field_extractor.md R89, R90, R91. -/
def Obligations.ConstructorsMaskWiderValues : Prop :=
  (∀ v : Nat, (mkAddress v).toNat = v &&& 0xFFF ∧ (mkAddress v).toNat = v % 4096 ∧
    mkAddress v = mkAddress (v % 4096)) ∧
  (∀ v : Nat, (mkRegisterIndex v).toNat = v &&& 0xF ∧ (mkRegisterIndex v).toNat = v % 16 ∧
    mkRegisterIndex v = mkRegisterIndex (v % 16)) ∧
  (∀ a b : Address, a = b ↔ a.toNat = b.toNat) ∧
  (∀ b0 b1 : Byte, mkAddress (nnnField b0 b1).toNat = nnnField b0 b1 ∧
    mkRegisterIndex (xField b0).toNat = xField b0 ∧ mkRegisterIndex (yField b1).toNat = yField b1)

/-- 43_group8.md R150, 44_groupE.md R163, 45_groupF.md R180, and that every other word decodes to a well-formed variant. -/
def Obligations.DecodeFailsExactlyOnIllegalWords : Prop :=
  ∀ b0 b1 : Byte,
  (((leadField b0 = 0x8#4 ∧ nField b1 ∈ [0x8#4, 0x9#4, 0xA#4, 0xB#4, 0xC#4, 0xD#4, 0xF#4]) ∨
    (leadField b0 = 0xE#4 ∧ b1 ∉ [0x9E#8, 0xA1#8]) ∨
    (leadField b0 = 0xF#4 ∧ b1 ∉ [0x07#8, 0x0A#8, 0x15#8, 0x18#8, 0x1E#8, 0x29#8, 0x33#8, 0x55#8, 0x65#8])) ∧
    decode b0 b1 = .err ⟨wordOf b0 b1⟩) ∨
  (¬ illegal b0 b1 ∧ ∃ i : Instr, i.wellFormed = true ∧ decode b0 b1 = .ok i)

/-- 30_encoding.md R66 and 60_exceptions.md R201: how many of the words with each leading nibble fail, counts the spec marks as derived. -/
def Obligations.FailingWordCounts : Prop :=
  let failing := fun l : Nibble =>
    ((List.range 16).map fun x => ((List.range 256).filter fun b1 =>
      (decode (byteOf l (BitVec.ofNat 4 x)) (BitVec.ofNat 8 b1)).variant? == none).length).sum
  failing 0x8#4 = 7 * 256 ∧ failing 0xE#4 = 16 * 254 ∧ failing 0xF#4 = 16 * 247 ∧
  (∀ l : Nibble, l ∉ [0x8#4, 0xE#4, 0xF#4] → failing l = 0) ∧
  ((List.range 16).map fun l => failing (BitVec.ofNat 4 l)).sum = 9808

/-- 41_primary_dispatch.md R102. -/
def Obligations.UnconditionalNibblesSelectTheirVariantAlone : Prop :=
  ∀ b0 b1 c0 c1 : Byte, leadField b0 ∈ unconditionalNibbles → leadField c0 ∈ unconditionalNibbles →
  (∃ i j : Instr, decode b0 b1 = .ok i ∧ decode c0 c1 = .ok j ∧
    (i.variant = j.variant ↔ leadField b0 = leadField c0) ∧
    instrOperands i = formatOperands (variantFormat i.variant) (drivePorts (.ok i) ⟨b0, b1⟩))

/-- 30_encoding.md R65: words with equal keys have the same variant, or both fail. -/
def Obligations.DispatchKeysSelectTheVariant : Prop :=
  ∀ b0 b1 c0 c1 : Byte, leadField b0 = leadField c0 →
  (leadField b0 ∈ [0x0#4, 0x8#4] → nField b1 = nField c1) →
  (leadField b0 ∈ [0xE#4, 0xF#4] → nnField b1 = nnField c1) →
  (decode b0 b1).variant? = (decode c0 c1).variant?

/-- 41_primary_dispatch.md R103 and R108. -/
def Obligations.JumpAndLoadImmDecode : Prop :=
  ∀ b0 b1 : Byte,
  (leadField b0 = 0x1#4 → decode b0 b1 = .ok (.jump (b0.extractLsb' 0 4 ++ b1))) ∧
  (leadField b0 = 0x6#4 → decode b0 b1 = .ok (.loadImm (b0.extractLsb' 0 4) b1))

/-- 41_primary_dispatch.md R103 to R114: the whole table of the twelve nibbles. The operand sets and the names of ten of them are the spec's own decisions D7 and D10 (log entry 8). -/
def Obligations.UnconditionalVariantsDecode : Prop :=
  ∀ b0 b1 : Byte,
  (leadField b0 = 0x1#4 → decode b0 b1 = .ok (.jump (xField b0 ++ b1))) ∧
  (leadField b0 = 0x2#4 → decode b0 b1 = .ok (.call (xField b0 ++ b1))) ∧
  (leadField b0 = 0x3#4 → decode b0 b1 = .ok (.skipEqImm (xField b0) b1)) ∧
  (leadField b0 = 0x4#4 → decode b0 b1 = .ok (.skipNeImm (xField b0) b1)) ∧
  (leadField b0 = 0x5#4 → decode b0 b1 = .ok (.skipEqReg (xField b0) (yField b1))) ∧
  (leadField b0 = 0x6#4 → decode b0 b1 = .ok (.loadImm (xField b0) b1)) ∧
  (leadField b0 = 0x7#4 → decode b0 b1 = .ok (.addImm (xField b0) b1)) ∧
  (leadField b0 = 0x9#4 → decode b0 b1 = .ok (.skipNeReg (xField b0) (yField b1))) ∧
  (leadField b0 = 0xA#4 → decode b0 b1 = .ok (.loadIndex (xField b0 ++ b1))) ∧
  (leadField b0 = 0xB#4 → decode b0 b1 = .ok (.jumpOffset (xField b0 ++ b1))) ∧
  (leadField b0 = 0xC#4 → decode b0 b1 = .ok (.random (xField b0) b1)) ∧
  (leadField b0 = 0xD#4 → decode b0 b1 = .ok (.draw (xField b0) (yField b1) (nField b1)))

/-- 42_group0.md R130 to R134. That every other N gives a variant of its own, SysAddr with NNN, is R133, the spec's own decision
D9 (log entry 8). -/
def Obligations.GroupZeroDispatchesOnN : Prop :=
  ∀ b0 b1 : Byte, leadField b0 = 0x0#4 →
  (nField b1 = 0x0#4 → decode b0 b1 = .ok .clearScreen) ∧
  (nField b1 = 0xE#4 → decode b0 b1 = .ok .ret) ∧
  (nField b1 ≠ 0x0#4 → nField b1 ≠ 0xE#4 → decode b0 b1 = .ok (.sysAddr (xField b0 ++ b1)))

/-- 43_group8.md R145, with the example of 90_conflicts.md C3. -/
def Obligations.AddWithCarryDecodes : Prop :=
  (∀ b0 b1 : Byte, leadField b0 = 0x8#4 → nField b1 = 0x4#4 →
    decode b0 b1 = .ok (.addReg (b0.extractLsb' 0 4) (b1.extractLsb' 4 4))) ∧
  decode 0x8B#8 0x34#8 = .ok (.addReg 0xB#4 0x3#4)

/-- 43_group8.md R140 to R150. Which N is which operation is the spec's own decision D10 but for N = 0x4, and that the shifts carry Y is D8 (log entry 8). -/
def Obligations.GroupEightDispatchesOnN : Prop :=
  ∀ b0 b1 : Byte, leadField b0 = 0x8#4 →
  (nField b1 = 0x0#4 → decode b0 b1 = .ok (.move (xField b0) (yField b1))) ∧
  (nField b1 = 0x1#4 → decode b0 b1 = .ok (.or (xField b0) (yField b1))) ∧
  (nField b1 = 0x2#4 → decode b0 b1 = .ok (.and (xField b0) (yField b1))) ∧
  (nField b1 = 0x3#4 → decode b0 b1 = .ok (.xor (xField b0) (yField b1))) ∧
  (nField b1 = 0x4#4 → decode b0 b1 = .ok (.addReg (xField b0) (yField b1))) ∧
  (nField b1 = 0x5#4 → decode b0 b1 = .ok (.sub (xField b0) (yField b1))) ∧
  (nField b1 = 0x6#4 → decode b0 b1 = .ok (.shiftRight (xField b0) (yField b1))) ∧
  (nField b1 = 0x7#4 → decode b0 b1 = .ok (.subReverse (xField b0) (yField b1))) ∧
  (nField b1 = 0xE#4 → decode b0 b1 = .ok (.shiftLeft (xField b0) (yField b1))) ∧
  (nField b1 ∉ [0x0#4, 0x1#4, 0x2#4, 0x3#4, 0x4#4, 0x5#4, 0x6#4, 0x7#4, 0xE#4] → decode b0 b1 = .err ⟨wordOf b0 b1⟩)

/-- 44_groupE.md R160, R161, R162, R163. -/
def Obligations.GroupEDispatchesOnNn : Prop :=
  ∀ b0 b1 : Byte, leadField b0 = 0xE#4 →
  (nnField b1 = 0x9E#8 → decode b0 b1 = .ok (.skipKeyPressed (xField b0))) ∧
  (nnField b1 = 0xA1#8 → decode b0 b1 = .ok (.skipKeyNotPressed (xField b0))) ∧
  (nnField b1 ∉ [0x9E#8, 0xA1#8] → decode b0 b1 = .err ⟨wordOf b0 b1⟩)

/-- 45_groupF.md R170 to R180. Which NN is which operation is the spec's own decision D10 (log entry 8). -/
def Obligations.GroupFDispatchesOnNn : Prop :=
  ∀ b0 b1 : Byte, leadField b0 = 0xF#4 →
  (nnField b1 = 0x07#8 → decode b0 b1 = .ok (.loadDelay (xField b0))) ∧
  (nnField b1 = 0x0A#8 → decode b0 b1 = .ok (.waitKey (xField b0))) ∧
  (nnField b1 = 0x15#8 → decode b0 b1 = .ok (.setDelay (xField b0))) ∧
  (nnField b1 = 0x18#8 → decode b0 b1 = .ok (.setSound (xField b0))) ∧
  (nnField b1 = 0x1E#8 → decode b0 b1 = .ok (.addIndex (xField b0))) ∧
  (nnField b1 = 0x29#8 → decode b0 b1 = .ok (.loadFont (xField b0))) ∧
  (nnField b1 = 0x33#8 → decode b0 b1 = .ok (.storeBcd (xField b0))) ∧
  (nnField b1 = 0x55#8 → decode b0 b1 = .ok (.storeRegs (xField b0))) ∧
  (nnField b1 = 0x65#8 → decode b0 b1 = .ok (.loadRegs (xField b0))) ∧
  (nnField b1 ∉ [0x07#8, 0x0A#8, 0x15#8, 0x18#8, 0x1E#8, 0x29#8, 0x33#8, 0x55#8, 0x65#8] →
    decode b0 b1 = .err ⟨wordOf b0 b1⟩)

/-- ClearScreen, Return and SysAddr complete: what each emits is 42_group0.md R131 to R133. That it is so in EVERY state, also where the bytes on the inputs do not encode the
instruction, is the model's choice (log entry 11): the rules emit it only for words of its own row. So is the result
for a SysAddr value whose low nibble is 0x0 or 0xE, which R133 says never occurs, and SysAddr as a variant of its own is D9
(log entry 8). Ports and tags are the spec's decisions D2 and D3 (log entry 7). The frame is in `emitted`, where the
words to come are the model's own field (log entry 3). -/
def Obligations.GroupZeroMeaningsEmit : Prop :=
  ∀ s : State,
  exec .clearScreen s = .next (emitted s .clearScreen 0#6) ∧
  exec .ret s = .next (emitted s .ret 1#6) ∧
  (∀ (nnn : Address), exec (.sysAddr nnn) s = .next (emitted s (.sysAddr nnn) 2#6))

/-- The twelve unconditional variants complete: what each emits is 41_primary_dispatch.md R103 to R114. That it is so in EVERY state, also where the bytes on the inputs do not encode the
instruction, is the model's choice (log entry 11): the rules emit it only for words of its own row. Ports and
tags are the spec's decisions D2 and D3 (log entry 7). The
words to come, unchanged, are the model's own field (log entry 3). -/
def Obligations.UnconditionalMeaningsEmit : Prop :=
  ∀ s : State,
  (∀ (nnn : Address), exec (.jump nnn) s = .next (emitted s (.jump nnn) 3#6)) ∧
  (∀ (nnn : Address), exec (.call nnn) s = .next (emitted s (.call nnn) 4#6)) ∧
  (∀ (x : RegisterIndex) (nn : Imm8), exec (.skipEqImm x nn) s = .next (emitted s (.skipEqImm x nn) 5#6)) ∧
  (∀ (x : RegisterIndex) (nn : Imm8), exec (.skipNeImm x nn) s = .next (emitted s (.skipNeImm x nn) 6#6)) ∧
  (∀ (x : RegisterIndex) (y : RegisterIndex), exec (.skipEqReg x y) s = .next (emitted s (.skipEqReg x y) 7#6)) ∧
  (∀ (x : RegisterIndex) (nn : Imm8), exec (.loadImm x nn) s = .next (emitted s (.loadImm x nn) 8#6)) ∧
  (∀ (x : RegisterIndex) (nn : Imm8), exec (.addImm x nn) s = .next (emitted s (.addImm x nn) 9#6)) ∧
  (∀ (x : RegisterIndex) (y : RegisterIndex), exec (.skipNeReg x y) s = .next (emitted s (.skipNeReg x y) 19#6)) ∧
  (∀ (nnn : Address), exec (.loadIndex nnn) s = .next (emitted s (.loadIndex nnn) 20#6)) ∧
  (∀ (nnn : Address), exec (.jumpOffset nnn) s = .next (emitted s (.jumpOffset nnn) 21#6)) ∧
  (∀ (x : RegisterIndex) (nn : Imm8), exec (.random x nn) s = .next (emitted s (.random x nn) 22#6)) ∧
  (∀ (x : RegisterIndex) (y : RegisterIndex) (n : Imm4), exec (.draw x y n) s = .next (emitted s (.draw x y n) 23#6))

/-- The nine group-8 variants complete: what each emits is 43_group8.md R141 to R149. That it is so in EVERY state, also where the bytes on the inputs do not encode the
instruction, is the model's choice (log entry 11): the rules emit it only for words of its own row. Ports and
tags are the spec's decisions D2 and D3 (log entry 7). The
words to come, unchanged, are the model's own field (log entry 3). -/
def Obligations.GroupEightMeaningsEmit : Prop :=
  ∀ s : State,
  (∀ (x : RegisterIndex) (y : RegisterIndex), exec (.move x y) s = .next (emitted s (.move x y) 10#6)) ∧
  (∀ (x : RegisterIndex) (y : RegisterIndex), exec (.or x y) s = .next (emitted s (.or x y) 11#6)) ∧
  (∀ (x : RegisterIndex) (y : RegisterIndex), exec (.and x y) s = .next (emitted s (.and x y) 12#6)) ∧
  (∀ (x : RegisterIndex) (y : RegisterIndex), exec (.xor x y) s = .next (emitted s (.xor x y) 13#6)) ∧
  (∀ (x : RegisterIndex) (y : RegisterIndex), exec (.addReg x y) s = .next (emitted s (.addReg x y) 14#6)) ∧
  (∀ (x : RegisterIndex) (y : RegisterIndex), exec (.sub x y) s = .next (emitted s (.sub x y) 15#6)) ∧
  (∀ (x : RegisterIndex) (y : RegisterIndex), exec (.shiftRight x y) s = .next (emitted s (.shiftRight x y) 16#6)) ∧
  (∀ (x : RegisterIndex) (y : RegisterIndex), exec (.subReverse x y) s = .next (emitted s (.subReverse x y) 17#6)) ∧
  (∀ (x : RegisterIndex) (y : RegisterIndex), exec (.shiftLeft x y) s = .next (emitted s (.shiftLeft x y) 18#6))

/-- The two group-E variants complete: what each emits is 44_groupE.md R161 and R162. That it is so in EVERY state, also where the bytes on the inputs do not encode the
instruction, is the model's choice (log entry 11): the rules emit it only for words of its own row. Ports and
tags are the spec's decisions D2 and D3 (log entry 7). The
words to come, unchanged, are the model's own field (log entry 3). -/
def Obligations.GroupEMeaningsEmit : Prop :=
  ∀ s : State,
  (∀ (x : RegisterIndex), exec (.skipKeyPressed x) s = .next (emitted s (.skipKeyPressed x) 24#6)) ∧
  (∀ (x : RegisterIndex), exec (.skipKeyNotPressed x) s = .next (emitted s (.skipKeyNotPressed x) 25#6))

/-- The nine group-F variants complete: what each emits is 45_groupF.md R171 to R179. That it is so in EVERY state, also where the bytes on the inputs do not encode the
instruction, is the model's choice (log entry 11): the rules emit it only for words of its own row. Ports and
tags are the spec's decisions D2 and D3 (log entry 7). The
words to come, unchanged, are the model's own field (log entry 3). -/
def Obligations.GroupFMeaningsEmit : Prop :=
  ∀ s : State,
  (∀ (x : RegisterIndex), exec (.loadDelay x) s = .next (emitted s (.loadDelay x) 26#6)) ∧
  (∀ (x : RegisterIndex), exec (.waitKey x) s = .next (emitted s (.waitKey x) 27#6)) ∧
  (∀ (x : RegisterIndex), exec (.setDelay x) s = .next (emitted s (.setDelay x) 28#6)) ∧
  (∀ (x : RegisterIndex), exec (.setSound x) s = .next (emitted s (.setSound x) 29#6)) ∧
  (∀ (x : RegisterIndex), exec (.addIndex x) s = .next (emitted s (.addIndex x) 30#6)) ∧
  (∀ (x : RegisterIndex), exec (.loadFont x) s = .next (emitted s (.loadFont x) 31#6)) ∧
  (∀ (x : RegisterIndex), exec (.storeBcd x) s = .next (emitted s (.storeBcd x) 32#6)) ∧
  (∀ (x : RegisterIndex), exec (.storeRegs x) s = .next (emitted s (.storeRegs x) 33#6)) ∧
  (∀ (x : RegisterIndex), exec (.loadRegs x) s = .next (emitted s (.loadRegs x) 34#6))

/-- The frame of every instruction: it answers a next state with the input bytes as they were and the six field outputs those
of the word on the inputs (10_state.md R20, R29). For every PAIR of instruction and state, also where the bytes on the inputs do not
encode the instruction, this is the model's choice (log entry 11), and the words to come are the model's own field (log entry 3). -/
def Obligations.NoInstructionTouchesItsInputs : Prop :=
  ∀ (i : Instr) (s : State), ∃ t : State, exec i s = .next t ∧
  t.input = s.input ∧ t.pending = s.pending ∧ t.result = .ok i ∧
  t.ports.fLead = leadField s.input.byte0 ∧ t.ports.fX = xField s.input.byte0 ∧ t.ports.fY = yField s.input.byte1 ∧
  t.ports.fN = nField s.input.byte1 ∧ t.ports.fNn = nnField s.input.byte1 ∧
  t.ports.fNnn = nnnField s.input.byte0 s.input.byte1

/-- A step presents the next word (the bytes still on the inputs when none is to come: log entry 3), then runs the decoded instruction's meaning, or drives the decode failure. -/
def Obligations.StepRunsTheDecodedInstruction : Prop :=
  ∀ s : State,
  (∀ (w : InputWord) (rest : List InputWord) (i : Instr), s.pending = w :: rest → decode w.byte0 w.byte1 = .ok i →
    step s = exec i { s with input := w, pending := rest }) ∧
  (∀ i : Instr, s.pending = [] → decode s.input.byte0 s.input.byte1 = .ok i → step s = exec i s) ∧
  (∀ (w : InputWord) (rest : List InputWord) (f : DecodeFailure), s.pending = w :: rest →
    decode w.byte0 w.byte1 = .err f → step s = .next (failed { s with input := w, pending := rest } f.word)) ∧
  (∀ f : DecodeFailure, s.pending = [] → decode s.input.byte0 s.input.byte1 = .err f →
    step s = .next (failed s f.word))

/-- 60_exceptions.md R203, R204, R209: the illegal word gives the failure value and no variant, and the decode of any word that
follows is computed from that word alone. That the failure carries the word is the spec's decision D4 (log entry 7); the list of
words to come, and the held inputs when it is empty, are the model's choice (log entry 3). -/
def Obligations.DecodeFailureIsARecoverableResult : Prop :=
  ∀ s : State, illegal s.nextInput.byte0 s.nextInput.byte1 →
  ∃ t : State, step s = .next t ∧ t.result = .err ⟨s.nextInput.word⟩ ∧ t.result.variant? = none ∧
    t.input = s.nextInput ∧ t.pending = s.pending.tail ∧
    ∀ w : Word, ∃ u : State, step (t.placeNextWord w) = .next u ∧ u.result = decodeWord w

/-- 60_exceptions.md R200 to R202. The payload, the code 0 and the tag 63 are the spec's own decisions D3 and D4 (log entry 7); the
next word is the model's (log entry 3). -/
def Obligations.FailureRecordsTheWord : Prop :=
  ∀ s : State, illegal s.nextInput.byte0 s.nextInput.byte1 →
  ∃ (t : State) (f : DecodeFailure), step s = .next t ∧ t = failed s.present s.nextInput.word ∧ t.result = .err f ∧
    f.word = s.nextInput.word ∧ f.kind = .unrecognizedInstructionEncoding ∧ f.kind.causeCode = 0 ∧
    t.ports.fLead ++ t.ports.fNnn = f.word

/-- 20_memory.md R47: in either order two words give the results each gives alone, and states that agree on the next word agree on every output. -/
def Obligations.DecodesAreIndependent : Prop :=
  (∀ (s : State) (p q : InputWord) (rest : List InputWord), ∃ a b c d : State,
    step { s with pending := p :: q :: rest } = .next a ∧ step a = .next b ∧
    step { s with pending := q :: p :: rest } = .next c ∧ step c = .next d ∧
    a.result = d.result ∧ a.ports = d.ports ∧ b.result = c.result ∧ b.ports = c.ports ∧
    a.result = decode p.byte0 p.byte1 ∧ b.result = decode q.byte0 q.byte1) ∧
  (∀ s s' : State, s.nextInput = s'.nextInput → ∃ t t' : State, step s = .next t ∧ step s' = .next t' ∧
    t.result = t'.result ∧ t.ports = t'.ports ∧ t.input = t'.input)

/-- 20_memory.md R44: decoding the same word any number of times gives the same result. That the inputs hold their bytes when no word is to come is the model's choice (log entry 3). -/
def Obligations.ReevaluationChangesNothing : Prop :=
  ∀ (s : State) (k : Nat), s.pending = [] → Host.Core.run Sys2Proof.core (k + 1) s = step s

/-- 95_test_vectors.md Part 3 "End state, for every program": the sequence of decode results, one per word, each the decode of its
own bytes. The list of words to come, and that each step takes one off it, are the model's choice (log entry 3). -/
def Obligations.StreamDecodesWordByWord : Prop :=
  ∀ (s : State) (k : Nat) (w : InputWord), s.pending[k]? = some w →
  ∃ t : State, Host.Core.run Sys2Proof.core (k + 1) s = .next t ∧
    t.input = w ∧ t.result = decode w.byte0 w.byte1 ∧ t.ports = drivePorts (decode w.byte0 w.byte1) w ∧
    t.pending = s.pending.drop (k + 1)

/-- 20_memory.md R40, R42: word k of a stream is bytes 2k and 2k+1, the first the most significant, and a whole number of words at the front does not change how the rest is paired. -/
def Obligations.ByteStreamIsReadInBigEndianPairs : Prop :=
  ∀ (bytes : List Byte) (k : Nat) (w : InputWord),
  ((inputsOfBytes bytes)[k]? = some w ↔
    bytes[2 * k]? = some w.byte0 ∧ bytes[2 * k + 1]? = some w.byte1) ∧
  (∀ more : List Byte, bytes.length % 2 = 0 →
    inputsOfBytes (bytes ++ more) = inputsOfBytes bytes ++ inputsOfBytes more)

/-- An invariant from any state, those no run reaches included: after a step the outputs are the decode of the inputs, the result is legal, and (`ok`, `tag`) is a driven pair (10_state.md R29, R30, R35). -/
def Obligations.EveryStepSettlesTheOutputs : Prop :=
  ∀ s t : State, step s = .next t → Settled t

/-- 10_state.md R35 for the model's reset inputs (bytes 0x00, 0x00: log entry 2). -/
def Obligations.ResetIsSettled : Prop :=
  Settled State.reset

/-- 10_state.md R29 and R30, and that each of the 36 pairs is driven. Tags by the spec's decision D3 (log entry 7). -/
def Obligations.OkAndTagAreDrivenInPairs : Prop :=
  (∀ s t : State, step s = .next t →
    (t.ports.ok = true ∧ t.ports.tag.toNat ≤ 34) ∨ (t.ports.ok = false ∧ t.ports.tag.toNat = 63)) ∧
  (∀ (s : State) (n : Tag), n.toNat ≤ 34 ∨ n.toNat = 63 → ∃ (w : Word) (t : State),
    step (s.placeNextWord w) = .next t ∧ t.ports.tag = n ∧ (t.ports.ok = true ↔ n.toNat ≤ 34))

/-- 10_state.md R34, which the spec marks as derived: the typed result reads back from the ports, and the ports keep every bit of the word. -/
def Obligations.TypedResultAndPortsAreEquivalent : Prop :=
  ∀ s t : State, step s = .next t →
  typedOfPorts t.ports = some t.result ∧ t.ports.fLead ++ t.ports.fNnn = t.input.word ∧
  (∀ i : Instr, t.result = .ok i → instrOperands i = formatOperands (variantFormat i.variant) t.ports)

/-- Every well-formed instruction, every operand value, every value of the ignored bits (30_encoding.md R64, R68). -/
def Obligations.DecodeInvertsEncode : Prop :=
  ∀ (i : Instr) (fill : Word), i.wellFormed = true → decodeWord (encodeWith fill i) = .ok i

/-- 41_primary_dispatch.md R116: each variant has a word, and a decoded instruction gives back exactly its word's bits. -/
def Obligations.EveryVariantRoundTrips : Prop :=
  (∀ v : Variant, ∃ (w : Word) (i : Instr), decodeWord w = .ok i ∧ i.variant = v) ∧
  (∀ (w : Word) (i : Instr), decodeWord w = .ok i ↔ i.wellFormed = true ∧ encodeWith w i = w)

/-- 41_primary_dispatch.md R115, with 90_conflicts.md C5. -/
def Obligations.UnconditionalOperandsAreFaithful : Prop :=
  ∀ b0 b1 c0 c1 : Byte, leadField b0 ∈ unconditionalNibbles →
  (∀ i : Instr, decode b0 b1 = .ok i →
    instrOperands i = formatOperands (variantFormat i.variant) (drivePorts (.ok i) ⟨b0, b1⟩)) ∧
  (decode b0 b1 = decode c0 c1 ↔
    (b0 = c0 ∧ b1 = c1) ∨ (leadField b0 ∈ [0x5#4, 0x9#4] ∧ b0 = c0 ∧ yField b1 = yField c1)) ∧
  (∀ r r' : DecodeResult, drivePorts r ⟨b0, b1⟩ = drivePorts r' ⟨c0, c1⟩ → b0 = c0 ∧ b1 = c1)

/-- 30_encoding.md, the reading rules of opcode_table.json with R64 and R66: a word selects at most one row, the row of the variant it decodes to, and none exactly when it fails. -/
def Obligations.OpcodeTableAndDecoderAgree : Prop :=
  ∀ w : Word, (opcodeTable.filter fun r => r.selects w).map OpcodeRow.variant = (decodeWord w).variant?.toList

/-- 30_encoding.md R64 and 10_state.md R31: 35 variants, tags 0 to 34, one each (tags by the spec's decision D3, log entry 7). -/
def Obligations.TagsNumberTheVariants : Prop :=
  (∀ v : Variant, (variantTag v).toNat < 35 ∧ variantOfTag (variantTag v) = some v) ∧
  (∀ t : Tag, (variantOfTag t).isSome = true ↔ t.toNat < 35) ∧
  (∀ (t : Tag) (v : Variant), variantOfTag t = some v → variantTag v = t)

/-- 10_state.md R33. -/
def Obligations.ResultsEqualByVariantAndOperands : Prop :=
  ∀ r r' : DecodeResult, r = r' ↔
  (∃ i j : Instr, r = .ok i ∧ r' = .ok j ∧ i.variant = j.variant ∧ instrOperands i = instrOperands j) ∨
  (∃ f g : DecodeFailure, r = .err f ∧ r' = .err g ∧ f.word = g.word)

/-- Words written out bit by bit from the encodings of spec/opcode_table.json, one per family and one failure (95_test_vectors.md S1 to S6). -/
def Obligations.WrittenOutWordsDecode : Prop :=
  decodeWord 0b0000000011100000#16 = .ok .clearScreen ∧
  decodeWord 0b0000000011101110#16 = .ok .ret ∧
  decodeWord 0b0001001000110100#16 = .ok (.jump 0x234#12) ∧
  decodeWord 0b0110101000000101#16 = .ok (.loadImm 0xA#4 0x05#8) ∧
  decodeWord 0b1000101100110100#16 = .ok (.addReg 0xB#4 0x3#4) ∧
  decodeWord 0b1110010110011110#16 = .ok (.skipKeyPressed 0x5#4) ∧
  decodeWord 0b1111011000110011#16 = .ok (.storeBcd 0x6#4) ∧
  decodeWord 0b1111000010011001#16 = .err ⟨0xF099#16⟩
end

