-- ==== Sys2Proof/Laws/Decode.lean ====
section
/-! SUPPORT. Laws of the byte order, the field extractor, the value constructors and the mask rows, so that no later proof
works on bits. -/

namespace Sys2Proof

/-- A 4-bit field has sixteen values. -/
theorem nibble_cases (v : Nibble) :
    v = 0x0#4 ∨ v = 0x1#4 ∨ v = 0x2#4 ∨ v = 0x3#4 ∨ v = 0x4#4 ∨ v = 0x5#4 ∨ v = 0x6#4 ∨ v = 0x7#4 ∨
    v = 0x8#4 ∨ v = 0x9#4 ∨ v = 0xA#4 ∨ v = 0xB#4 ∨ v = 0xC#4 ∨ v = 0xD#4 ∨ v = 0xE#4 ∨ v = 0xF#4 := by
  revert v; decide

/-! Concatenations and slices as numbers. -/

theorem wordOf_toNat (b0 b1 : Byte) : (wordOf b0 b1).toNat = b0.toNat * 256 + b1.toNat := by
  show (b0 ++ b1).toNat = _
  rw [BitVec.toNat_append, ← Nat.shiftLeft_add_eq_or_of_lt b1.isLt, Nat.shiftLeft_eq]

theorem byteOf_toNat (hi lo : Nibble) : (byteOf hi lo).toNat = hi.toNat * 16 + lo.toNat := by
  show (hi ++ lo).toNat = _
  rw [BitVec.toNat_append, ← Nat.shiftLeft_add_eq_or_of_lt lo.isLt, Nat.shiftLeft_eq]

theorem addressOf_toNat (hi : Nibble) (lo : Byte) : (addressOf hi lo).toNat = hi.toNat * 256 + lo.toNat := by
  show (hi ++ lo).toNat = _
  rw [BitVec.toNat_append, ← Nat.shiftLeft_add_eq_or_of_lt lo.isLt, Nat.shiftLeft_eq]

theorem slice_toNat {w : Nat} (start len : Nat) (v : BitVec w) :
    (v.extractLsb' start len).toNat = v.toNat / 2 ^ start % 2 ^ len := by
  rw [BitVec.extractLsb'_toNat, Nat.shiftRight_eq_div_pow]

/-! Byte order. -/

@[simp] theorem byte0Of_wordOf (b0 b1 : Byte) : byte0Of (wordOf b0 b1) = b0 := by
  apply BitVec.eq_of_toNat_eq; rw [byte0Of, slice_toNat, wordOf_toNat]; omega

@[simp] theorem byte1Of_wordOf (b0 b1 : Byte) : byte1Of (wordOf b0 b1) = b1 := by
  apply BitVec.eq_of_toNat_eq; rw [byte1Of, slice_toNat, wordOf_toNat]; omega

@[simp] theorem wordOf_bytesOf (w : Word) : wordOf (byte0Of w) (byte1Of w) = w := by
  apply BitVec.eq_of_toNat_eq; rw [wordOf_toNat, byte0Of, byte1Of, slice_toNat, slice_toNat]; omega

@[simp] theorem decodeWord_wordOf (b0 b1 : Byte) : decodeWord (wordOf b0 b1) = decode b0 b1 := by
  simp [decodeWord]

/-! The two bytes are their nibbles. -/

@[simp] theorem leadField_byteOf (l x : Nibble) : leadField (byteOf l x) = l := by
  apply BitVec.eq_of_toNat_eq; rw [leadField, slice_toNat, byteOf_toNat]; omega

@[simp] theorem xField_byteOf (l x : Nibble) : xField (byteOf l x) = x := by
  apply BitVec.eq_of_toNat_eq; rw [xField, slice_toNat, byteOf_toNat]; omega

@[simp] theorem yField_byteOf (y n : Nibble) : yField (byteOf y n) = y := leadField_byteOf y n

@[simp] theorem nField_byteOf (y n : Nibble) : nField (byteOf y n) = n := xField_byteOf y n

@[simp] theorem byteOf_lead_x (b0 : Byte) : byteOf (leadField b0) (xField b0) = b0 := by
  apply BitVec.eq_of_toNat_eq; rw [byteOf_toNat, leadField, xField, slice_toNat, slice_toNat]; omega

@[simp] theorem byteOf_y_n (b1 : Byte) : byteOf (yField b1) (nField b1) = b1 := byteOf_lead_x b1

@[simp] theorem nnField_eq (b1 : Byte) : nnField b1 = b1 := rfl

theorem byteOf_inj {a b c d : Nibble} : byteOf a b = byteOf c d ↔ a = c ∧ b = d := by
  constructor
  · intro h
    exact ⟨by simpa using congrArg leadField h, by simpa using congrArg xField h⟩
  · rintro ⟨rfl, rfl⟩; rfl

theorem wordOf_inj {a b c d : Byte} : wordOf a b = wordOf c d ↔ a = c ∧ b = d := by
  constructor
  · intro h
    exact ⟨by simpa using congrArg byte0Of h, by simpa using congrArg byte1Of h⟩
  · rintro ⟨rfl, rfl⟩; rfl

/-! The 12-bit field and its two parts. -/

@[simp] theorem addressOf_parts (nnn : Address) : addressOf (nnn.extractLsb' 8 4) (nnn.extractLsb' 0 8) = nnn := by
  apply BitVec.eq_of_toNat_eq; rw [addressOf_toNat, slice_toNat, slice_toNat]; omega

@[simp] theorem addressOf_hi (x : Nibble) (b : Byte) : (addressOf x b).extractLsb' 8 4 = x := by
  apply BitVec.eq_of_toNat_eq; rw [slice_toNat, addressOf_toNat]; omega

@[simp] theorem addressOf_lo (x : Nibble) (b : Byte) : (addressOf x b).extractLsb' 0 8 = b := by
  apply BitVec.eq_of_toNat_eq; rw [slice_toNat, addressOf_toNat]; omega

/-- The low nibble of NNN is N. -/
theorem nField_address_lo (nnn : Address) : nField (nnn.extractLsb' 0 8) = nnn.extractLsb' 0 4 := by
  apply BitVec.eq_of_toNat_eq; rw [nField, slice_toNat, slice_toNat, slice_toNat]; omega

theorem addressOf_low_nibble (x : Nibble) (b : Byte) : (addressOf x b).extractLsb' 0 4 = nField b := by
  rw [← nField_address_lo, addressOf_lo]

/-! The constructors are the identity on the fields the decoder applies them to (R89, R90). -/

theorem mkAddress_toNat_eq (a : BitVec 12) : mkAddress a.toNat = a := by
  apply BitVec.eq_of_toNat_eq
  have h : a.toNat &&& 0xFFF = a.toNat % 2 ^ 12 := Nat.and_two_pow_sub_one_eq_mod _ 12
  rw [mkAddress, BitVec.toNat_ofNat, h]; omega

theorem mkRegisterIndex_toNat_eq (r : Nibble) : mkRegisterIndex r.toNat = r := by
  apply BitVec.eq_of_toNat_eq
  have h : r.toNat &&& 0xF = r.toNat % 2 ^ 4 := Nat.and_two_pow_sub_one_eq_mod _ 4
  rw [mkRegisterIndex, BitVec.toNat_ofNat, h]; omega

@[simp] theorem xOperand_eq (b0 : Byte) : xOperand b0 = xField b0 := mkRegisterIndex_toNat_eq _

@[simp] theorem yOperand_eq (b1 : Byte) : yOperand b1 = yField b1 := mkRegisterIndex_toNat_eq _

@[simp] theorem aOperand_eq (b0 b1 : Byte) : aOperand b0 b1 = nnnField b0 b1 := mkAddress_toNat_eq _

/-! What a decode can answer. -/

/-- Every decode is one of the lines of the pseudocode of 41_primary_dispatch.md R101, with its condition. -/
theorem decode_cases (b0 b1 : Byte) :
    (leadField b0 = 0x0#4 ∧ nField b1 = 0x0#4 ∧ decode b0 b1 = .ok .clearScreen) ∨
    (leadField b0 = 0x0#4 ∧ nField b1 = 0xE#4 ∧ decode b0 b1 = .ok .ret) ∨
    (leadField b0 = 0x0#4 ∧ nField b1 ≠ 0x0#4 ∧ nField b1 ≠ 0xE#4 ∧ decode b0 b1 = .ok (.sysAddr (nnnField b0 b1))) ∨
    (leadField b0 = 0x1#4 ∧ decode b0 b1 = .ok (.jump (nnnField b0 b1))) ∨
    (leadField b0 = 0x2#4 ∧ decode b0 b1 = .ok (.call (nnnField b0 b1))) ∨
    (leadField b0 = 0x3#4 ∧ decode b0 b1 = .ok (.skipEqImm (xField b0) b1)) ∨
    (leadField b0 = 0x4#4 ∧ decode b0 b1 = .ok (.skipNeImm (xField b0) b1)) ∨
    (leadField b0 = 0x5#4 ∧ decode b0 b1 = .ok (.skipEqReg (xField b0) (yField b1))) ∨
    (leadField b0 = 0x6#4 ∧ decode b0 b1 = .ok (.loadImm (xField b0) b1)) ∨
    (leadField b0 = 0x7#4 ∧ decode b0 b1 = .ok (.addImm (xField b0) b1)) ∨
    (leadField b0 = 0x8#4 ∧ nField b1 = 0x0#4 ∧ decode b0 b1 = .ok (.move (xField b0) (yField b1))) ∨
    (leadField b0 = 0x8#4 ∧ nField b1 = 0x1#4 ∧ decode b0 b1 = .ok (.or (xField b0) (yField b1))) ∨
    (leadField b0 = 0x8#4 ∧ nField b1 = 0x2#4 ∧ decode b0 b1 = .ok (.and (xField b0) (yField b1))) ∨
    (leadField b0 = 0x8#4 ∧ nField b1 = 0x3#4 ∧ decode b0 b1 = .ok (.xor (xField b0) (yField b1))) ∨
    (leadField b0 = 0x8#4 ∧ nField b1 = 0x4#4 ∧ decode b0 b1 = .ok (.addReg (xField b0) (yField b1))) ∨
    (leadField b0 = 0x8#4 ∧ nField b1 = 0x5#4 ∧ decode b0 b1 = .ok (.sub (xField b0) (yField b1))) ∨
    (leadField b0 = 0x8#4 ∧ nField b1 = 0x6#4 ∧ decode b0 b1 = .ok (.shiftRight (xField b0) (yField b1))) ∨
    (leadField b0 = 0x8#4 ∧ nField b1 = 0x7#4 ∧ decode b0 b1 = .ok (.subReverse (xField b0) (yField b1))) ∨
    (leadField b0 = 0x8#4 ∧ nField b1 = 0xE#4 ∧ decode b0 b1 = .ok (.shiftLeft (xField b0) (yField b1))) ∨
    (leadField b0 = 0x8#4 ∧ nField b1 ∈ [0x8#4, 0x9#4, 0xA#4, 0xB#4, 0xC#4, 0xD#4, 0xF#4] ∧
    decode b0 b1 = .err ⟨wordOf b0 b1⟩) ∨
    (leadField b0 = 0x9#4 ∧ decode b0 b1 = .ok (.skipNeReg (xField b0) (yField b1))) ∨
    (leadField b0 = 0xA#4 ∧ decode b0 b1 = .ok (.loadIndex (nnnField b0 b1))) ∨
    (leadField b0 = 0xB#4 ∧ decode b0 b1 = .ok (.jumpOffset (nnnField b0 b1))) ∨
    (leadField b0 = 0xC#4 ∧ decode b0 b1 = .ok (.random (xField b0) b1)) ∨
    (leadField b0 = 0xD#4 ∧ decode b0 b1 = .ok (.draw (xField b0) (yField b1) (nField b1))) ∨
    (leadField b0 = 0xE#4 ∧ b1 = 0x9E#8 ∧ decode b0 b1 = .ok (.skipKeyPressed (xField b0))) ∨
    (leadField b0 = 0xE#4 ∧ b1 = 0xA1#8 ∧ decode b0 b1 = .ok (.skipKeyNotPressed (xField b0))) ∨
    (leadField b0 = 0xE#4 ∧ b1 ∉ [0x9E#8, 0xA1#8] ∧ decode b0 b1 = .err ⟨wordOf b0 b1⟩) ∨
    (leadField b0 = 0xF#4 ∧ b1 = 0x07#8 ∧ decode b0 b1 = .ok (.loadDelay (xField b0))) ∨
    (leadField b0 = 0xF#4 ∧ b1 = 0x0A#8 ∧ decode b0 b1 = .ok (.waitKey (xField b0))) ∨
    (leadField b0 = 0xF#4 ∧ b1 = 0x15#8 ∧ decode b0 b1 = .ok (.setDelay (xField b0))) ∨
    (leadField b0 = 0xF#4 ∧ b1 = 0x18#8 ∧ decode b0 b1 = .ok (.setSound (xField b0))) ∨
    (leadField b0 = 0xF#4 ∧ b1 = 0x1E#8 ∧ decode b0 b1 = .ok (.addIndex (xField b0))) ∨
    (leadField b0 = 0xF#4 ∧ b1 = 0x29#8 ∧ decode b0 b1 = .ok (.loadFont (xField b0))) ∨
    (leadField b0 = 0xF#4 ∧ b1 = 0x33#8 ∧ decode b0 b1 = .ok (.storeBcd (xField b0))) ∨
    (leadField b0 = 0xF#4 ∧ b1 = 0x55#8 ∧ decode b0 b1 = .ok (.storeRegs (xField b0))) ∨
    (leadField b0 = 0xF#4 ∧ b1 = 0x65#8 ∧ decode b0 b1 = .ok (.loadRegs (xField b0))) ∨
    (leadField b0 = 0xF#4 ∧ b1 ∉ [0x07#8, 0x0A#8, 0x15#8, 0x18#8, 0x1E#8, 0x29#8, 0x33#8, 0x55#8, 0x65#8] ∧
    decode b0 b1 = .err ⟨wordOf b0 b1⟩) := by
  rcases nibble_cases (leadField b0) with h | h | h | h | h | h | h | h | h | h | h | h | h | h | h | h
  case inl =>
    rcases nibble_cases (nField b1) with g | g | g | g | g | g | g | g | g | g | g | g | g | g | g | g <;>
      simp [decode, decodeGroup0, h, g]
  case inr.inr.inr.inr.inr.inr.inr.inr.inl =>
    rcases nibble_cases (nField b1) with g | g | g | g | g | g | g | g | g | g | g | g | g | g | g | g <;>
      simp [decode, decodeGroup8, h, g]
  case inr.inr.inr.inr.inr.inr.inr.inr.inr.inr.inr.inr.inr.inr.inl =>
    simp only [decode, h, decodeGroupE, nnField_eq]
    split <;> simp_all
  case inr.inr.inr.inr.inr.inr.inr.inr.inr.inr.inr.inr.inr.inr.inr =>
    have hF : decode b0 b1 = decodeGroupF b0 b1 := by simp [decode, h]
    rw [hF, decodeGroupF, nnField_eq]
    split <;> simp_all
  all_goals simp [decode, h]

/-- `lead` and `NNN` together hold every bit of the word (R88). -/
theorem lead_append_nnn (b0 b1 : Byte) : leadField b0 ++ nnnField b0 b1 = wordOf b0 b1 := by
  apply BitVec.eq_of_toNat_eq
  show (leadField b0 ++ addressOf (xField b0) b1).toNat = _
  rw [BitVec.toNat_append, ← Nat.shiftLeft_add_eq_or_of_lt (addressOf (xField b0) b1).isLt, Nat.shiftLeft_eq,
    addressOf_toNat, leadField, xField, slice_toNat, slice_toNat, wordOf_toNat]
  omega

/-! The masks of the opcode rows keep whole nibbles. -/

theorem byteOf_and (a b c d : Nibble) : byteOf a b &&& byteOf c d = byteOf (a &&& c) (b &&& d) :=
  BitVec.and_append

theorem wordOf_and (a b c d : Byte) : wordOf a b &&& wordOf c d = wordOf (a &&& c) (b &&& d) :=
  BitVec.and_append

theorem nibble_and_ones (v : Nibble) : v &&& 0xF#4 = v := by revert v; decide

theorem nibble_and_zero (v : Nibble) : v &&& 0x0#4 = 0x0#4 := by revert v; decide

theorem byte_and_ones (v : Byte) : v &&& 0xFF#8 = v := BitVec.and_allOnes

theorem byte_and_zero (v : Byte) : v &&& 0x00#8 = 0x00#8 := BitVec.and_zero

/-- A row whose fixed bits are the leading nibble. -/
theorem maskMatches_lead (b0 b1 : Byte) (l : Nibble) :
    maskMatches (wordOf b0 b1) 0xF000#16 (wordOf (byteOf l 0x0#4) 0x00#8) = (leadField b0 == l) := by
  have hm : (0xF000#16 : Word) = wordOf (byteOf 0xF#4 0x0#4) 0x00#8 := by decide
  rw [maskMatches, hm, wordOf_and, byte_and_zero]
  conv_lhs => rw [← byteOf_lead_x b0]
  rw [byteOf_and, nibble_and_ones, nibble_and_zero, Bool.eq_iff_iff]
  simp [wordOf_inj, byteOf_inj]

/-- A row whose fixed bits are the leading nibble and N. -/
theorem maskMatches_lead_n (b0 b1 : Byte) (l n : Nibble) :
    maskMatches (wordOf b0 b1) 0xF00F#16 (wordOf (byteOf l 0x0#4) (byteOf 0x0#4 n))
      = (leadField b0 == l && nField b1 == n) := by
  have hm : (0xF00F#16 : Word) = wordOf (byteOf 0xF#4 0x0#4) (byteOf 0x0#4 0xF#4) := by decide
  rw [maskMatches, hm, wordOf_and]
  conv_lhs => rw [← byteOf_lead_x b0, ← byteOf_y_n b1]
  rw [byteOf_and, byteOf_and, nibble_and_ones, nibble_and_zero, nibble_and_ones, nibble_and_zero, Bool.eq_iff_iff]
  simp [wordOf_inj, byteOf_inj]

/-- A row whose fixed bits are the leading nibble and NN. -/
theorem maskMatches_lead_nn (b0 b1 : Byte) (l : Nibble) (nn : Byte) :
    maskMatches (wordOf b0 b1) 0xF0FF#16 (wordOf (byteOf l 0x0#4) nn) = (leadField b0 == l && b1 == nn) := by
  have hm : (0xF0FF#16 : Word) = wordOf (byteOf 0xF#4 0x0#4) 0xFF#8 := by decide
  rw [maskMatches, hm, wordOf_and, byte_and_ones]
  conv_lhs => rw [← byteOf_lead_x b0]
  rw [byteOf_and, nibble_and_ones, nibble_and_zero, Bool.eq_iff_iff]
  simp [wordOf_inj, byteOf_inj]

end Sys2Proof
end

