-- ==== Sys2Proof/Laws/State.lean ====
section
/-! SUPPORT. One lemma per field per update of State, so that no later proof unfolds a record update. -/

namespace Sys2Proof.Machine

section
variable (s : State) (r : DecodeResult) (w : Word)

@[simp] theorem State.drive_input : (s.drive r).input = s.input := rfl
@[simp] theorem State.drive_pending : (s.drive r).pending = s.pending := rfl
@[simp] theorem State.drive_result : (s.drive r).result = r := rfl
@[simp] theorem State.drive_ports : (s.drive r).ports = drivePorts r s.input := rfl

@[simp] theorem State.present_input : s.present.input = s.nextInput := rfl
@[simp] theorem State.present_pending : s.present.pending = s.pending.tail := rfl
@[simp] theorem State.present_result : s.present.result = s.result := rfl
@[simp] theorem State.present_ports : s.present.ports = s.ports := rfl

@[simp] theorem State.placeNextWord_input : (s.placeNextWord w).input = s.input := rfl
@[simp] theorem State.placeNextWord_pending : (s.placeNextWord w).pending = inputOfWord w :: s.pending.tail := rfl
@[simp] theorem State.placeNextWord_result : (s.placeNextWord w).result = s.result := rfl
@[simp] theorem State.placeNextWord_ports : (s.placeNextWord w).ports = s.ports := rfl
end

section
variable (r : DecodeResult) (w : InputWord)

@[simp] theorem drivePorts_ok : (drivePorts r w).ok = resultOk r := rfl
@[simp] theorem drivePorts_tag : (drivePorts r w).tag = resultTag r := rfl
@[simp] theorem drivePorts_fLead : (drivePorts r w).fLead = leadField w.byte0 := rfl
@[simp] theorem drivePorts_fX : (drivePorts r w).fX = xField w.byte0 := rfl
@[simp] theorem drivePorts_fY : (drivePorts r w).fY = yField w.byte1 := rfl
@[simp] theorem drivePorts_fN : (drivePorts r w).fN = nField w.byte1 := rfl
@[simp] theorem drivePorts_fNn : (drivePorts r w).fNn = w.byte1 := rfl
@[simp] theorem drivePorts_fNnn : (drivePorts r w).fNnn = nnnField w.byte0 w.byte1 := rfl
end

end Sys2Proof.Machine
end

