-- ==== Sys2Proof/Laws/Ops.lean ====
section
/-! SUPPORT. What each shared operation and a step can do, said once. -/

namespace Sys2Proof.Machine

theorem nextInput_of_pending {s : State} {w : InputWord} {rest : List InputWord} (h : s.pending = w :: rest) :
    s.nextInput = w := by
  rw [State.nextInput, h]

theorem nextInput_of_empty {s : State} (h : s.pending = []) : s.nextInput = s.input := by
  rw [State.nextInput, h]

@[simp] theorem nextInput_placeNextWord (s : State) (w : Word) : (s.placeNextWord w).nextInput = inputOfWord w := rfl

@[simp] theorem inputOfWord_byte0 (w : Word) : (inputOfWord w).byte0 = byte0Of w := rfl

@[simp] theorem inputOfWord_byte1 (w : Word) : (inputOfWord w).byte1 = byte1Of w := rfl

@[simp] theorem inputOfWord_word (w : InputWord) : inputOfWord w.word = w := by
  cases w; simp [inputOfWord, InputWord.word]

@[simp] theorem word_inputOfWord (w : Word) : (inputOfWord w).word = w := by
  simp [inputOfWord, InputWord.word]

/-- Every meaning is an `emit`: exec drives the instruction it is given and changes nothing else. -/
theorem exec_eq_emit (i : Instr) (s : State) : exec i s = .next (s.drive (.ok i)) := by
  cases i <;> rfl

theorem raiseDecodeFailure_eq (f : DecodeFailure) (s : State) : raiseDecodeFailure f s = .next (s.drive (.err f)) :=
  rfl

/-- All a step can do: present the next word and drive its decode. -/
theorem step_eq_drive (s : State) :
    step s = .next (s.present.drive (decode s.nextInput.byte0 s.nextInput.byte1)) := by
  unfold step
  cases decode s.nextInput.byte0 s.nextInput.byte1 with
  | ok i => exact exec_eq_emit i s.present
  | err f => rfl

/-- Inversion: a next state of a step is the presented state driven with its decode. -/
theorem step_next_iff {s t : State} :
    step s = .next t ↔ t = s.present.drive (decode s.nextInput.byte0 s.nextInput.byte1) := by
  rw [step_eq_drive]
  constructor
  · intro h; cases h; rfl
  · rintro rfl; rfl

/-- One step and then the rest of a run. -/
theorem run_succ (k : Nat) (s : State) :
    Host.Core.run core (k + 1) s =
      Host.Core.run core k (s.present.drive (decode s.nextInput.byte0 s.nextInput.byte1)) := by
  have h : core.step s = .next (s.present.drive (decode s.nextInput.byte0 s.nextInput.byte1)) := step_eq_drive s
  simp only [Host.Core.run, h]

end Sys2Proof.Machine
end

