-- ==== Sys2Proof/Laws/PerInstr.lean ====
section
/-! SUPPORT. Statements about every instruction as syntax, one lemma per constructor. -/

namespace Sys2Proof.Laws

open Sys2Proof.Machine

/-- The operands survive encoding: the variant put together from the fields of the encoded word, whatever its ignored bits,
is the instruction (30_encoding.md R63). -/
def EncodeKeepsOperands.Statement (i : Instr) : Prop :=
  ∀ (fill : Word) (r : DecodeResult), assemble i.variant (drivePorts r (inputOfWord (encodeWith fill i))) = i

section
variable (x y : RegisterIndex) (n : Imm4) (nn : Imm8) (nnn : Address)

theorem EncodeKeepsOperands.clearScreen : EncodeKeepsOperands.Statement .clearScreen := fun _ _ => rfl

theorem EncodeKeepsOperands.ret : EncodeKeepsOperands.Statement .ret := fun _ _ => rfl

theorem EncodeKeepsOperands.sysAddr : EncodeKeepsOperands.Statement (.sysAddr nnn) := fun _ _ => by
  simp [assemble, Instr.variant, encodeWith, wordLeadNnn, nnnField]

theorem EncodeKeepsOperands.jump : EncodeKeepsOperands.Statement (.jump nnn) := fun _ _ => by
  simp [assemble, Instr.variant, encodeWith, wordLeadNnn, nnnField]

theorem EncodeKeepsOperands.call : EncodeKeepsOperands.Statement (.call nnn) := fun _ _ => by
  simp [assemble, Instr.variant, encodeWith, wordLeadNnn, nnnField]

theorem EncodeKeepsOperands.skipEqImm : EncodeKeepsOperands.Statement (.skipEqImm x nn) := fun _ _ => by
  simp [assemble, Instr.variant, encodeWith, wordLeadXNn]

theorem EncodeKeepsOperands.skipNeImm : EncodeKeepsOperands.Statement (.skipNeImm x nn) := fun _ _ => by
  simp [assemble, Instr.variant, encodeWith, wordLeadXNn]

theorem EncodeKeepsOperands.skipEqReg : EncodeKeepsOperands.Statement (.skipEqReg x y) := fun _ _ => by
  simp [assemble, Instr.variant, encodeWith, wordLeadXYN]

theorem EncodeKeepsOperands.loadImm : EncodeKeepsOperands.Statement (.loadImm x nn) := fun _ _ => by
  simp [assemble, Instr.variant, encodeWith, wordLeadXNn]

theorem EncodeKeepsOperands.addImm : EncodeKeepsOperands.Statement (.addImm x nn) := fun _ _ => by
  simp [assemble, Instr.variant, encodeWith, wordLeadXNn]

theorem EncodeKeepsOperands.move : EncodeKeepsOperands.Statement (.move x y) := fun _ _ => by
  simp [assemble, Instr.variant, encodeWith, wordLeadXYN]

theorem EncodeKeepsOperands.or : EncodeKeepsOperands.Statement (.or x y) := fun _ _ => by
  simp [assemble, Instr.variant, encodeWith, wordLeadXYN]

theorem EncodeKeepsOperands.and : EncodeKeepsOperands.Statement (.and x y) := fun _ _ => by
  simp [assemble, Instr.variant, encodeWith, wordLeadXYN]

theorem EncodeKeepsOperands.xor : EncodeKeepsOperands.Statement (.xor x y) := fun _ _ => by
  simp [assemble, Instr.variant, encodeWith, wordLeadXYN]

theorem EncodeKeepsOperands.addReg : EncodeKeepsOperands.Statement (.addReg x y) := fun _ _ => by
  simp [assemble, Instr.variant, encodeWith, wordLeadXYN]

theorem EncodeKeepsOperands.sub : EncodeKeepsOperands.Statement (.sub x y) := fun _ _ => by
  simp [assemble, Instr.variant, encodeWith, wordLeadXYN]

theorem EncodeKeepsOperands.shiftRight : EncodeKeepsOperands.Statement (.shiftRight x y) := fun _ _ => by
  simp [assemble, Instr.variant, encodeWith, wordLeadXYN]

theorem EncodeKeepsOperands.subReverse : EncodeKeepsOperands.Statement (.subReverse x y) := fun _ _ => by
  simp [assemble, Instr.variant, encodeWith, wordLeadXYN]

theorem EncodeKeepsOperands.shiftLeft : EncodeKeepsOperands.Statement (.shiftLeft x y) := fun _ _ => by
  simp [assemble, Instr.variant, encodeWith, wordLeadXYN]

theorem EncodeKeepsOperands.skipNeReg : EncodeKeepsOperands.Statement (.skipNeReg x y) := fun _ _ => by
  simp [assemble, Instr.variant, encodeWith, wordLeadXYN]

theorem EncodeKeepsOperands.loadIndex : EncodeKeepsOperands.Statement (.loadIndex nnn) := fun _ _ => by
  simp [assemble, Instr.variant, encodeWith, wordLeadNnn, nnnField]

theorem EncodeKeepsOperands.jumpOffset : EncodeKeepsOperands.Statement (.jumpOffset nnn) := fun _ _ => by
  simp [assemble, Instr.variant, encodeWith, wordLeadNnn, nnnField]

theorem EncodeKeepsOperands.random : EncodeKeepsOperands.Statement (.random x nn) := fun _ _ => by
  simp [assemble, Instr.variant, encodeWith, wordLeadXNn]

theorem EncodeKeepsOperands.draw : EncodeKeepsOperands.Statement (.draw x y n) := fun _ _ => by
  simp [assemble, Instr.variant, encodeWith, wordLeadXYN]

theorem EncodeKeepsOperands.skipKeyPressed : EncodeKeepsOperands.Statement (.skipKeyPressed x) := fun _ _ => by
  simp [assemble, Instr.variant, encodeWith, wordLeadXNn]

theorem EncodeKeepsOperands.skipKeyNotPressed : EncodeKeepsOperands.Statement (.skipKeyNotPressed x) := fun _ _ => by
  simp [assemble, Instr.variant, encodeWith, wordLeadXNn]

theorem EncodeKeepsOperands.loadDelay : EncodeKeepsOperands.Statement (.loadDelay x) := fun _ _ => by
  simp [assemble, Instr.variant, encodeWith, wordLeadXNn]

theorem EncodeKeepsOperands.waitKey : EncodeKeepsOperands.Statement (.waitKey x) := fun _ _ => by
  simp [assemble, Instr.variant, encodeWith, wordLeadXNn]

theorem EncodeKeepsOperands.setDelay : EncodeKeepsOperands.Statement (.setDelay x) := fun _ _ => by
  simp [assemble, Instr.variant, encodeWith, wordLeadXNn]

theorem EncodeKeepsOperands.setSound : EncodeKeepsOperands.Statement (.setSound x) := fun _ _ => by
  simp [assemble, Instr.variant, encodeWith, wordLeadXNn]

theorem EncodeKeepsOperands.addIndex : EncodeKeepsOperands.Statement (.addIndex x) := fun _ _ => by
  simp [assemble, Instr.variant, encodeWith, wordLeadXNn]

theorem EncodeKeepsOperands.loadFont : EncodeKeepsOperands.Statement (.loadFont x) := fun _ _ => by
  simp [assemble, Instr.variant, encodeWith, wordLeadXNn]

theorem EncodeKeepsOperands.storeBcd : EncodeKeepsOperands.Statement (.storeBcd x) := fun _ _ => by
  simp [assemble, Instr.variant, encodeWith, wordLeadXNn]

theorem EncodeKeepsOperands.storeRegs : EncodeKeepsOperands.Statement (.storeRegs x) := fun _ _ => by
  simp [assemble, Instr.variant, encodeWith, wordLeadXNn]

theorem EncodeKeepsOperands.loadRegs : EncodeKeepsOperands.Statement (.loadRegs x) := fun _ _ => by
  simp [assemble, Instr.variant, encodeWith, wordLeadXNn]

end

end Sys2Proof.Laws
end

