-- ==== Sys2Proof/Tests/Slice0.lean ====
section
/-! SUPPORT. Tests and witnesses. Expected values are those of spec/95_test_vectors.md (S and V numbers) or of the named rule;
words are written out from the encodings of spec/opcode_table.json. -/

open Sys2Proof Sys2Proof.Machine

/-! The WellFormed smoke test: the one check, both values it refuses, and the values beside them (R133). -/

theorem test_wellFormed_refuses_sysAddr_n0 : (Instr.sysAddr 0x120#12).wellFormed = false := by decide
theorem test_wellFormed_refuses_sysAddr_nE : (Instr.sysAddr 0x0EE#12).wellFormed = false := by decide
theorem test_wellFormed_admits_sysAddr :
    ∀ a ∈ [0x001#12, 0x0E1#12, 0x00D#12, 0x0EF#12, 0xFFF#12], (Instr.sysAddr a).wellFormed = true := by decide

/-! The field extractor (V2, V4, V5) and the constructors (V10, V12, V14, V16, V18). -/

theorem test_fields_V4 : leadField 0xAB#8 = 0xA#4 ∧ xField 0xAB#8 = 0xB#4 ∧ yField 0xCD#8 = 0xC#4 ∧
    nField 0xCD#8 = 0xD#4 ∧ nnField 0xCD#8 = 0xCD#8 ∧ nnnField 0xAB#8 0xCD#8 = 0xBCD#12 := by decide
theorem test_word_is_big_endian : wordOf 0x12#8 0x34#8 = 0x1234#16 ∧ byte0Of 0x1234#16 = 0x12#8 := by decide
theorem test_mkAddress : mkAddress 0x1234 = 0x234#12 ∧ mkAddress 0xFFFF = 0xFFF#12 ∧ mkAddress 0x1000 = 0x000#12 := by
  decide
theorem test_mkRegisterIndex : mkRegisterIndex 0x1F = 0xF#4 ∧ mkRegisterIndex 0x10 = 0x0#4 ∧
    mkRegisterIndex 0xA5 = 0x5#4 := by decide

/-! Decoding: one word per constructor, bit by bit from the encoding of its row, with the values of Part 2.9. -/

theorem test_decode_group0 : decodeWord 0b0000000011100000#16 = .ok .clearScreen ∧
    decodeWord 0b0000000011101110#16 = .ok .ret ∧ decodeWord 0b0000000100100011#16 = .ok (.sysAddr 0x123#12) := by
  decide
theorem test_decode_nnn : decodeWord 0b0001001000110100#16 = .ok (.jump 0x234#12) ∧
    decodeWord 0b0010101010111100#16 = .ok (.call 0xABC#12) ∧
    decodeWord 0b1010000100100011#16 = .ok (.loadIndex 0x123#12) ∧
    decodeWord 0b1011000100100011#16 = .ok (.jumpOffset 0x123#12) := by decide
theorem test_decode_x_nn : decodeWord 0b0011101000000101#16 = .ok (.skipEqImm 0xA#4 0x05#8) ∧
    decodeWord 0b0100101000000101#16 = .ok (.skipNeImm 0xA#4 0x05#8) ∧
    decodeWord 0b0110101000000101#16 = .ok (.loadImm 0xA#4 0x05#8) ∧
    decodeWord 0b0111101000000101#16 = .ok (.addImm 0xA#4 0x05#8) ∧
    decodeWord 0b1100101000000101#16 = .ok (.random 0xA#4 0x05#8) := by decide
theorem test_decode_x_y : decodeWord 0b0101101010110000#16 = .ok (.skipEqReg 0xA#4 0xB#4) ∧
    decodeWord 0b1001101010110000#16 = .ok (.skipNeReg 0xA#4 0xB#4) ∧
    decodeWord 0b1101101010110101#16 = .ok (.draw 0xA#4 0xB#4 0x5#4) := by decide
theorem test_decode_group8_low : decodeWord 0b1000101010110000#16 = .ok (.move 0xA#4 0xB#4) ∧
    decodeWord 0b1000101010110001#16 = .ok (.or 0xA#4 0xB#4) ∧
    decodeWord 0b1000101010110010#16 = .ok (.and 0xA#4 0xB#4) ∧
    decodeWord 0b1000101010110011#16 = .ok (.xor 0xA#4 0xB#4) ∧
    decodeWord 0b1000101010110100#16 = .ok (.addReg 0xA#4 0xB#4) := by decide
theorem test_decode_group8_high : decodeWord 0b1000101010110101#16 = .ok (.sub 0xA#4 0xB#4) ∧
    decodeWord 0b1000101010110110#16 = .ok (.shiftRight 0xA#4 0xB#4) ∧
    decodeWord 0b1000101010110111#16 = .ok (.subReverse 0xA#4 0xB#4) ∧
    decodeWord 0b1000101010111110#16 = .ok (.shiftLeft 0xA#4 0xB#4) := by decide
theorem test_decode_groupE : decodeWord 0b1110101010011110#16 = .ok (.skipKeyPressed 0xA#4) ∧
    decodeWord 0b1110101010100001#16 = .ok (.skipKeyNotPressed 0xA#4) := by decide
theorem test_decode_groupF_low : decodeWord 0b1111101000000111#16 = .ok (.loadDelay 0xA#4) ∧
    decodeWord 0b1111101000001010#16 = .ok (.waitKey 0xA#4) ∧
    decodeWord 0b1111101000010101#16 = .ok (.setDelay 0xA#4) ∧
    decodeWord 0b1111101000011000#16 = .ok (.setSound 0xA#4) ∧
    decodeWord 0b1111101000011110#16 = .ok (.addIndex 0xA#4) := by decide
theorem test_decode_groupF_high : decodeWord 0b1111101000101001#16 = .ok (.loadFont 0xA#4) ∧
    decodeWord 0b1111101000110011#16 = .ok (.storeBcd 0xA#4) ∧
    decodeWord 0b1111101001010101#16 = .ok (.storeRegs 0xA#4) ∧
    decodeWord 0b1111101001100101#16 = .ok (.loadRegs 0xA#4) := by decide

/-! Ignored bits (R68), the other N values of group 0 (V64 to V68), and words that fail (R150, R163, R180). -/

theorem test_ignored_bits_group0 : decodeWord 0x0000#16 = .ok .clearScreen ∧ decodeWord 0x0FF0#16 = .ok .clearScreen ∧
    decodeWord 0x012E#16 = .ok .ret ∧ decodeWord 0x00FE#16 = .ok .ret ∧ decodeWord 0x00FF#16 = .ok (.sysAddr 0x0FF#12) := by
  decide
theorem test_ignored_bits_skip : decodeWord 0x5AB7#16 = .ok (.skipEqReg 0xA#4 0xB#4) ∧
    decodeWord 0x9AB1#16 = .ok (.skipNeReg 0xA#4 0xB#4) := by decide
theorem test_group8_failures :
    decodeWord 0x8128#16 = .err ⟨0x8128#16⟩ ∧ decodeWord 0x8129#16 = .err ⟨0x8129#16⟩ ∧
    decodeWord 0x812A#16 = .err ⟨0x812A#16⟩ ∧ decodeWord 0x812B#16 = .err ⟨0x812B#16⟩ ∧
    decodeWord 0x812C#16 = .err ⟨0x812C#16⟩ ∧ decodeWord 0x812D#16 = .err ⟨0x812D#16⟩ ∧
    decodeWord 0x812F#16 = .err ⟨0x812F#16⟩ := by
  decide
theorem test_groupE_failures :
    decodeWord 0xE09F#16 = .err ⟨0xE09F#16⟩ ∧ decodeWord 0xE09D#16 = .err ⟨0xE09D#16⟩ ∧
    decodeWord 0xE0A0#16 = .err ⟨0xE0A0#16⟩ ∧ decodeWord 0xE0A2#16 = .err ⟨0xE0A2#16⟩ ∧
    decodeWord 0xE0E9#16 = .err ⟨0xE0E9#16⟩ ∧ decodeWord 0xE01A#16 = .err ⟨0xE01A#16⟩ := by
  decide
theorem test_groupF_failures :
    decodeWord 0xF006#16 = .err ⟨0xF006#16⟩ ∧ decodeWord 0xF008#16 = .err ⟨0xF008#16⟩ ∧
    decodeWord 0xF00B#16 = .err ⟨0xF00B#16⟩ ∧ decodeWord 0xF014#16 = .err ⟨0xF014#16⟩ ∧
    decodeWord 0xF01F#16 = .err ⟨0xF01F#16⟩ ∧ decodeWord 0xF034#16 = .err ⟨0xF034#16⟩ ∧
    decodeWord 0xF066#16 = .err ⟨0xF066#16⟩ ∧ decodeWord 0xF099#16 = .err ⟨0xF099#16⟩ := by
  decide

/-! The encoder, on words of Part 2.9 and with ignored bits filled. -/

theorem test_encode : encode (.jump 0x234#12) = 0x1234#16 ∧ encode (.shiftLeft 0xA#4 0xB#4) = 0x8ABE#16 ∧
    encode (.draw 0xA#4 0xB#4 0x5#4) = 0xDAB5#16 ∧ encode (.loadRegs 0xA#4) = 0xFA65#16 := by decide
theorem test_encode_fills_only_ignored_bits : encodeWith 0xFFFF#16 .ret = 0x0FFE#16 ∧
    encodeWith 0xFFFF#16 (.skipEqReg 0x1#4 0x2#4) = 0x512F#16 ∧ encodeWith 0xFFFF#16 (.jump 0x234#12) = 0x1234#16 := by
  decide

/-! One step: the port vectors of Part 2.8, from reset, through the host's placement. -/

/-- The ports and the result after one step on a word. -/
def outputsAfter (w : Nat) : Option (Ports × DecodeResult) :=
  match step (State.reset.withFetchWord 16 w) with
  | .next t => some (t.ports, t.result)
  | .fault _ => none
  | .refused _ => none

theorem test_step_V147 : outputsAfter 0x00E0 =
    some (⟨true, 0#6, 0x0#4, 0x0#4, 0xE#4, 0x0#4, 0xE0#8, 0x0E0#12⟩, .ok .clearScreen) := by decide
theorem test_step_V148 : outputsAfter 0x8B34 =
    some (⟨true, 14#6, 0x8#4, 0xB#4, 0x3#4, 0x4#4, 0x34#8, 0xB34#12⟩, .ok (.addReg 0xB#4 0x3#4)) := by decide
theorem test_step_V149 : outputsAfter 0xD125 =
    some (⟨true, 23#6, 0xD#4, 0x1#4, 0x2#4, 0x5#4, 0x25#8, 0x125#12⟩, .ok (.draw 0x1#4 0x2#4 0x5#4)) := by decide
theorem test_step_V151 : outputsAfter 0xE0A0 =
    some (⟨false, 63#6, 0xE#4, 0x0#4, 0xA#4, 0x0#4, 0xA0#8, 0x0A0#12⟩, .err ⟨0xE0A0#16⟩) := by decide
theorem test_step_V154 : outputsAfter 0x5AB7 =
    some (⟨true, 7#6, 0x5#4, 0xA#4, 0xB#4, 0x7#4, 0xB7#8, 0xAB7#12⟩, .ok (.skipEqReg 0xA#4 0xB#4)) := by decide
theorem test_reset_V146 : State.reset.ports = ⟨true, 0#6, 0x0#4, 0x0#4, 0x0#4, 0x0#4, 0x00#8, 0x000#12⟩ := by decide
theorem test_decodeTableWord : decodeTableWord 16 0x1234 = some (.jump 0x234#12) ∧
    decodeTableWord 16 0x8128 = none := by decide

/-! The same bytes at an odd offset (P1m), and the labels (R71, Part 3). -/

theorem test_stream_at_odd_offset :
    (inputsOfBytes [0x05#8, 0x70#8, 0xFF#8, 0x30#8, 0x00#8]).map (fun w => decode w.byte0 w.byte1) =
      [.ok .clearScreen, .err ⟨0xFF30#16⟩] := by decide
theorem test_labels : instrLabel (.loadImm 0x0#4 0x05#8) = "LD V0, 0x05" ∧ instrLabel (.jump 0x202#12) = "JP 0x202" ∧
    instrLabel (.draw 0x0#4 0x1#4 0x5#4) = "DRW V0, V1, 5" ∧ instrLabel (.loadRegs 0x2#4) = "LD V2, [I]" := by decide

/-! Witnesses: for each obligation with hypotheses, states and operands that meet them together, at the edges of each clause. -/

/-- Both ends of the twelve nibbles, and two words that share a leading nibble (UnconditionalNibblesSelectTheirVariantAlone,
UnconditionalOperandsAreFaithful, with the N-blind pair of 90_conflicts.md C5). -/
theorem witness_unconditional : (∀ b ∈ [0x10#8, 0x7F#8, 0x90#8, 0xAF#8, 0xDF#8], leadField b ∈ unconditionalNibbles) ∧
    leadField 0x10#8 = leadField 0x1F#8 ∧ leadField 0x51#8 ∈ unconditionalNibbles ∧
    decode 0x51#8 0x20#8 = decode 0x51#8 0x21#8 ∧ leadField 0x51#8 ∈ [0x5#4, 0x9#4] ∧ yField 0x20#8 = yField 0x21#8 := by
  decide
/-- Equal keys on different words, for each kind of key (DispatchKeysSelectTheVariant). -/
theorem witness_dispatch_keys : (leadField 0x8A#8 = leadField 0x8B#8 ∧ leadField 0x8A#8 ∈ [0x0#4, 0x8#4] ∧
      nField 0x04#8 = nField 0xF4#8) ∧
    (leadField 0xE0#8 = leadField 0xEF#8 ∧ leadField 0xE0#8 ∈ [0xE#4, 0xF#4] ∧ nnField 0x9E#8 = nnField 0x9E#8) ∧
    leadField 0x10#8 ∉ [0x0#4, 0x8#4] ∧ leadField 0x10#8 ∉ [0xE#4, 0xF#4] := by decide
/-- Each leading nibble of the unconditional clauses is some byte's (JumpAndLoadImmDecode, UnconditionalVariantsDecode). -/
theorem witness_lead : ∀ l ∈ unconditionalNibbles, leadField (byteOf l 0xF#4) = l := by decide
/-- The clauses of GroupZeroDispatchesOnN, with the neighbours of 0x0 and 0xE. -/
theorem witness_group0 : leadField 0x0F#8 = 0x0#4 ∧ nField 0xF0#8 = 0x0#4 ∧ nField 0xFE#8 = 0xE#4 ∧
    (∀ b ∈ [0x01#8, 0xED#8, 0xFF#8], nField b ≠ 0x0#4 ∧ nField b ≠ 0xE#4) := by decide
/-- The clauses of GroupEightDispatchesOnN and AddWithCarryDecodes: each defined N, and the failing N at both ends. -/
theorem witness_group8 : leadField 0x8B#8 = 0x8#4 ∧
    (∀ n ∈ [0x0#4, 0x1#4, 0x2#4, 0x3#4, 0x4#4, 0x5#4, 0x6#4, 0x7#4, 0xE#4], nField (byteOf 0x3#4 n) = n) ∧
    (∀ b ∈ [0x28#8, 0x2D#8, 0x2F#8],
      nField b ∉ [0x0#4, 0x1#4, 0x2#4, 0x3#4, 0x4#4, 0x5#4, 0x6#4, 0x7#4, 0xE#4]) := by decide
/-- The clauses of GroupEDispatchesOnNn, with the near misses of R163. -/
theorem witness_groupE : leadField 0xEF#8 = 0xE#4 ∧ nnField 0x9E#8 = 0x9E#8 ∧ nnField 0xA1#8 = 0xA1#8 ∧
    (∀ b ∈ [0x9D#8, 0x9F#8, 0xA0#8, 0xA2#8], nnField b ∉ [0x9E#8, 0xA1#8]) := by decide
/-- The clauses of GroupFDispatchesOnNn, with the near misses of R180. -/
theorem witness_groupF : leadField 0xF0#8 = 0xF#4 ∧ nnField 0x07#8 = 0x07#8 ∧ nnField 0x65#8 = 0x65#8 ∧
    (∀ b ∈ [0x00#8, 0x06#8, 0x08#8, 0x66#8, 0xFF#8],
      nnField b ∉ [0x07#8, 0x0A#8, 0x15#8, 0x18#8, 0x1E#8, 0x29#8, 0x33#8, 0x55#8, 0x65#8]) := by decide
/-- A leading nibble without a failure, as FailingWordCounts assumes. -/
theorem witness_lead_without_failure : ∀ l ∈ [0x0#4, 0x7#4, 0x9#4, 0xD#4], l ∉ [0x8#4, 0xE#4, 0xF#4] := by decide

/-- A state with a word to come, and one with none. -/
def withWord (b0 b1 : Byte) : State := { State.reset with pending := [⟨b0, b1⟩] }

/-- Illegal next words of each group (DecodeFailureIsARecoverableResult, FailureRecordsTheWord). -/
theorem witness_illegal : illegal (withWord 0x81#8 0x28#8).nextInput.byte0 (withWord 0x81#8 0x28#8).nextInput.byte1 ∧
    illegal (withWord 0xE0#8 0xA0#8).nextInput.byte0 (withWord 0xE0#8 0xA0#8).nextInput.byte1 ∧
    illegal (withWord 0xF0#8 0x99#8).nextInput.byte0 (withWord 0xF0#8 0x99#8).nextInput.byte1 := by
  unfold illegal; decide
/-- The four clauses of StepRunsTheDecodedInstruction: a word to come or none, each decoding or failing. -/
theorem witness_step_clauses :
    (withWord 0x12#8 0x34#8).pending = ⟨0x12#8, 0x34#8⟩ :: [] ∧ decode 0x12#8 0x34#8 = .ok (.jump 0x234#12) ∧
    (withWord 0xF0#8 0x99#8).pending = ⟨0xF0#8, 0x99#8⟩ :: [] ∧ decode 0xF0#8 0x99#8 = .err ⟨0xF099#16⟩ ∧
    State.reset.pending = [] ∧ decode State.reset.input.byte0 State.reset.input.byte1 = .ok .clearScreen ∧
    { State.reset with input := ⟨0xF0#8, 0x99#8⟩ }.pending = [] := by decide
/-- Two different states with the same next word (DecodesAreIndependent). -/
theorem witness_same_next_word : (withWord 0x00#8 0x00#8).nextInput = State.reset.nextInput ∧
    withWord 0x00#8 0x00#8 ≠ State.reset := by decide
/-- ReevaluationChangesNothing and StreamDecodesWordByWord: no word to come, the first word and the last. -/
theorem witness_pending : { State.reset with input := ⟨0xFF#8, 0xFF#8⟩ }.pending = [] ∧
    (State.reset.withStream [0x60#8, 0x05#8, 0x00#8, 0xEE#8]).pending[0]? = some ⟨0x60#8, 0x05#8⟩ ∧
    (State.reset.withStream [0x60#8, 0x05#8, 0x00#8, 0xEE#8]).pending[1]? = some ⟨0x00#8, 0xEE#8⟩ := by decide
/-- ByteStreamIsReadInBigEndianPairs: an even front part, empty and not. -/
theorem witness_even_front : ([] : List Byte).length % 2 = 0 ∧ [0x60#8, 0x05#8].length % 2 = 0 := by decide
/-- A step that answers a next state (EveryStepSettlesTheOutputs, OkAndTagAreDrivenInPairs,
TypedResultAndPortsAreEquivalent), on a word that decodes and one that fails. -/
theorem witness_step_answers : (∃ t, step (withWord 0x12#8 0x34#8) = .next t ∧ t.result = .ok (.jump 0x234#12)) ∧
    (∃ t, step (withWord 0xF0#8 0x99#8) = .next t ∧ t.result = .err ⟨0xF099#16⟩) := by
  exact ⟨⟨_, step_eq_drive _, by decide⟩, ⟨_, step_eq_drive _, by decide⟩⟩
/-- The tags OkAndTagAreDrivenInPairs names, at both ends of its range. -/
theorem witness_tags : ∀ n ∈ [0#6, 34#6, 63#6], n.toNat ≤ 34 ∨ n.toNat = 63 := by decide
/-- Well-formed instructions, SysAddr among them (DecodeInvertsEncode). -/
theorem witness_wellFormed : (Instr.sysAddr 0x0EF#12).wellFormed = true ∧ Instr.clearScreen.wellFormed = true := by decide
/-- A variant under a tag (TagsNumberTheVariants). -/
theorem witness_tag_variant : variantOfTag 0#6 = some .clearScreen ∧ variantOfTag 34#6 = some .loadRegs ∧
    variantOfTag 35#6 = none := by decide
end

/-! # Proofs of the family 10_state.md

The facts about a decode, the tags, the operands and the ports come first; the obligations are settled after them. -/

namespace Sys2Proof.Machine

/-! ## What a decode carries -/

section
variable {b0 b1 : Byte}

/-- `SysAddr` is the one variant with a condition on its operand, and its dispatch line gives that condition (R133). -/
theorem wellFormed_of_decode_ok {i : Instr} (h : decode b0 b1 = .ok i) : i.wellFormed = true := by
  cases i with
  | sysAddr nnn =>
    have hline : leadField b0 = 0x0#4 ∧ nField b1 ≠ 0x0#4 ∧ nField b1 ≠ 0xE#4 ∧ nnn = nnnField b0 b1 := by
      simpa [h] using decode_cases b0 b1
    obtain ⟨-, h0, hE, rfl⟩ := hline
    simp [Instr.wellFormed, nnnField, addressOf_low_nibble, h0, hE]
  | _ => rfl

/-- Only the three failure arms fail, each on words that R66 lists, and each with the whole word (R200, R202). -/
theorem illegal_of_decode_err {f : DecodeFailure} (h : decode b0 b1 = .err f) :
    illegal b0 b1 ∧ f = ⟨wordOf b0 b1⟩ := by
  have hc := decode_cases b0 b1
  simp only [h, reduceCtorEq, and_false, false_or, DecodeResult.err.injEq] at hc
  rcases hc with ⟨hl, hn, hf⟩ | ⟨hl, hn, hf⟩ | ⟨hl, hn, hf⟩
  · exact ⟨.inl ⟨hl, hn⟩, hf⟩
  · exact ⟨.inr (.inl ⟨hl, hn⟩), hf⟩
  · exact ⟨.inr (.inr ⟨hl, hn⟩), hf⟩

/-- A decoded instruction is its variant over the fields of its own bytes (R63): each dispatch line says so of its own
variant, and the others answer another constructor. -/
theorem assemble_of_decode_ok {i : Instr} (h : decode b0 b1 = .ok i) (r : DecodeResult) :
    assemble i.variant (drivePorts r ⟨b0, b1⟩) = i := by
  have hc := decode_cases b0 b1
  cases i <;> simp [h] at hc <;> simp [assemble, Instr.variant, hc]

end

theorem legalResult_decode (b0 b1 : Byte) : legalResult (decode b0 b1) := by
  cases h : decode b0 b1 with
  | ok i => exact wellFormed_of_decode_ok h
  | err f =>
    obtain ⟨hi, rfl⟩ := illegal_of_decode_err h
    simpa [legalResult] using hi

/-! ## Tags and variants -/

theorem variantTag_toNat_lt (v : Variant) : (variantTag v).toNat < Config.variantCount := by
  cases v <;> decide

@[simp] theorem variantOfTag_variantTag (v : Variant) : variantOfTag (variantTag v) = some v := by
  cases v <;> rfl

/-- Every tag up to 34 is some variant's. -/
theorem exists_variantTag_eq {n : Tag} (hn : n.toNat ≤ 34) : ∃ v, variantTag v = n := by
  have h : ∀ n : Tag, n.toNat ≤ 34 → (variantOfTag n).map variantTag = some n := by decide
  obtain ⟨v, -, hv⟩ := Option.map_eq_some_iff.mp (h n hn)
  exact ⟨v, hv⟩

/-! ## Operands -/

@[simp] theorem variant_assemble (v : Variant) (p : Ports) : (assemble v p).variant = v := by
  cases v <;> rfl

/-- The operands of an assembled instruction are the field outputs of its format (R62, R34). -/
theorem instrOperands_assemble (v : Variant) (p : Ports) :
    instrOperands (assemble v p) = formatOperands (variantFormat v) p := by
  cases v <;> rfl

/-- Ports whose fields hold the given operands, for the operand lists a variant can have; every other field is as at
reset. -/
def portsOfOperands : List Operand → Ports
  | [.address a] => { State.reset.ports with fNnn := a }
  | [.reg x] => { State.reset.ports with fX := x }
  | [.reg x, .imm8 nn] => { State.reset.ports with fX := x, fNn := nn }
  | [.reg x, .reg y] => { State.reset.ports with fX := x, fY := y }
  | [.reg x, .reg y, .imm4 n] => { State.reset.ports with fX := x, fY := y, fN := n }
  | _ => State.reset.ports

/-- The variant and the operands hold all of an instruction. -/
theorem assemble_portsOfOperands (i : Instr) : assemble i.variant (portsOfOperands (instrOperands i)) = i := by
  cases i <;> rfl

theorem instr_eq_iff {i j : Instr} : i = j ↔ i.variant = j.variant ∧ instrOperands i = instrOperands j := by
  constructor
  · rintro rfl
    exact ⟨rfl, rfl⟩
  · rintro ⟨hv, ho⟩
    rw [← assemble_portsOfOperands i, hv, ho, assemble_portsOfOperands]

/-! ## A word for every variant -/

/-- The ports on the word 0x0001, whose NNN is a SysAddr's (R133). -/
def samplePorts : Ports := drivePorts (.ok (.sysAddr 0x001#12)) (inputOfWord 0x0001#16)

theorem decodeWord_encode_sample (v : Variant) :
    decodeWord (encode (assemble v samplePorts)) = .ok (assemble v samplePorts) := by
  cases v <;> decide

theorem exists_word_of_variant (v : Variant) : ∃ (w : Word) (i : Instr), decodeWord w = .ok i ∧ i.variant = v :=
  ⟨_, _, decodeWord_encode_sample v, variant_assemble v samplePorts⟩

/-! ## The driven ports -/

theorem legalOkTag_drivePorts (r : DecodeResult) (w : InputWord) : legalOkTag (drivePorts r w) := by
  cases r with
  | ok i => exact .inl ⟨rfl, variantTag_toNat_lt i.variant⟩
  | err f => exact .inr ⟨rfl, rfl⟩

theorem lead_append_nnn_drivePorts (r : DecodeResult) (w : InputWord) :
    (drivePorts r w).fLead ++ (drivePorts r w).fNnn = w.word :=
  lead_append_nnn w.byte0 w.byte1

/-- The ports driven from a decode give that decode back: the tag its variant and the fields its operands, or the fields
the word that failed (R34). -/
theorem typedOfPorts_drive_decode (w : InputWord) :
    typedOfPorts (drivePorts (decode w.byte0 w.byte1) w) = some (decode w.byte0 w.byte1) := by
  cases h : decode w.byte0 w.byte1 with
  | ok i => simp [typedOfPorts, resultOk, resultTag, assemble_of_decode_ok h]
  | err f =>
    obtain ⟨-, rfl⟩ := illegal_of_decode_err h
    simp [typedOfPorts, resultOk, resultTag, lead_append_nnn]

/-- Driving the decode of the bytes on the inputs settles any state. -/
theorem settled_drive_decode (s : State) : Settled (s.drive (decode s.input.byte0 s.input.byte1)) :=
  ⟨rfl, rfl, legalResult_decode _ _, legalOkTag_drivePorts _ _⟩

theorem settled_of_step {s t : State} (h : step s = .next t) : Settled t := by
  rw [step_next_iff.mp h]
  exact settled_drive_decode s.present

/-- A step on a placed word drives its decode onto the ports. -/
theorem step_placeNextWord (s : State) (w : Word) : ∃ t,
    step (s.placeNextWord w) = .next t ∧ t.result = decodeWord w ∧
      t.ports = drivePorts (decodeWord w) (inputOfWord w) :=
  ⟨_, step_eq_drive _, rfl, rfl⟩

/-! ## The obligations -/

/-- Settles O28: a step is a presented word and the drive of its decode. -/
theorem everyStepSettlesTheOutputs : Obligations.EveryStepSettlesTheOutputs :=
  fun _ _ h => settled_of_step h

/-- Settles O31, from the first two parts of `Settled`: the ports are driven from the decode of the inputs. -/
theorem typedResultAndPortsAreEquivalent : Obligations.TypedResultAndPortsAreEquivalent := by
  intro s t h
  obtain ⟨hr, hp, -, -⟩ := settled_of_step h
  refine ⟨?_, ?_, fun i hi => ?_⟩
  · rw [hp, hr, typedOfPorts_drive_decode]
  · rw [hp, lead_append_nnn_drivePorts]
  · have hA : assemble i.variant t.ports = i := hp ▸ assemble_of_decode_ok (hr.symm.trans hi) t.result
    calc instrOperands i = instrOperands (assemble i.variant t.ports) := by rw [hA]
      _ = formatOperands (variantFormat i.variant) t.ports := instrOperands_assemble _ _

/-- Settles O30: the pairs are the invariant's, a tag up to 34 is driven by a word of its variant, and 63 by 0xF099. -/
theorem okAndTagAreDrivenInPairs : Obligations.OkAndTagAreDrivenInPairs := by
  refine ⟨fun s t h => ?_, fun s n hn => ?_⟩
  · obtain ⟨-, -, -, hpair⟩ := settled_of_step h
    rcases hpair with ⟨hok, htag⟩ | ⟨hok, htag⟩
    · exact .inl ⟨hok, Nat.le_of_lt_succ htag⟩
    · exact .inr ⟨hok, congrArg BitVec.toNat htag⟩
  · rcases hn with hle | h63
    · obtain ⟨v, rfl⟩ := exists_variantTag_eq hle
      obtain ⟨w, i, hd, rfl⟩ := exists_word_of_variant v
      obtain ⟨t, ht, -, hp⟩ := step_placeNextWord s w
      exact ⟨w, t, ht, by simp [hp, hd, resultTag], by simp [hp, hd, resultOk, hle]⟩
    · obtain ⟨t, ht, -, hp⟩ := step_placeNextWord s 0xF099#16
      have hd : decodeWord 0xF099#16 = .err ⟨0xF099#16⟩ := by decide
      have hn : n = Config.failTag := BitVec.eq_of_toNat_eq h63
      exact ⟨_, t, ht, by simp [hp, hd, resultTag, hn], by simp [hp, hd, resultOk, h63]⟩

/-- Settles O37: results are equal by constructor, and instructions by variant and operands. -/
theorem resultsEqualByVariantAndOperands : Obligations.ResultsEqualByVariantAndOperands := by
  intro r r'
  constructor
  · rintro rfl
    cases r with
    | ok i => exact .inl ⟨i, i, rfl, rfl, rfl, rfl⟩
    | err f => exact .inr ⟨f, f, rfl, rfl, rfl⟩
  · rintro (⟨i, j, rfl, rfl, hv, ho⟩ | ⟨⟨w⟩, ⟨w'⟩, rfl, rfl, hw⟩)
    · rw [instr_eq_iff.mpr ⟨hv, ho⟩]
    · rw [show w = w' from hw]

/-- Settles O20: every meaning is a drive of its instruction, which keeps the inputs and reads the fields from them. -/
theorem noInstructionTouchesItsInputs : Obligations.NoInstructionTouchesItsInputs :=
  fun i s => ⟨s.drive (.ok i), exec_eq_emit i s, rfl, rfl, rfl, rfl, rfl, rfl, rfl, rfl, rfl⟩

/-- Settles O29: the reset state is unchanged by driving the decode of its inputs. -/
theorem resetIsSettled : Obligations.ResetIsSettled := by
  have hreset : State.reset = State.reset.drive (decode State.reset.input.byte0 State.reset.input.byte1) := by decide
  unfold Obligations.ResetIsSettled
  rw [hreset]
  exact settled_drive_decode State.reset

end Sys2Proof.Machine

/-! # Proofs of the family 20_memory.md

The arithmetic of the fields and the pairing of a byte stream come first, then one evaluation as a function on states and
a run as its iteration; the obligations are settled after them. -/

namespace Sys2Proof

/-! ## The fields as numbers -/

section
variable (b0 b1 : Byte)

theorem nnField_toNat_eq : (nnField b1).toNat = (yField b1).toNat * 16 + (nField b1).toNat := by
  rw [nnField_eq, ← byteOf_toNat, byteOf_y_n]

theorem nnnField_toNat_eq : (nnnField b0 b1).toNat = (xField b0).toNat * 256 + (nnField b1).toNat :=
  addressOf_toNat (xField b0) b1

theorem wordOf_toNat_eq_lead_nnn :
    (wordOf b0 b1).toNat = (leadField b0).toNat * 4096 + (nnnField b0 b1).toNat := by
  rw [← lead_append_nnn, BitVec.toNat_append, ← Nat.shiftLeft_add_eq_or_of_lt (nnnField b0 b1).isLt, Nat.shiftLeft_eq]

end

/-- The two bytes are read back from `lead` and `NNN`, which together are the word (R88). -/
theorem bytes_eq_of_lead_of_nnn {b0 b1 c0 c1 : Byte} (hl : leadField b0 = leadField c0)
    (hn : nnnField b0 b1 = nnnField c0 c1) : b0 = c0 ∧ b1 = c1 := by
  rw [← wordOf_inj, ← lead_append_nnn, ← lead_append_nnn, hl, hn]

namespace Machine

/-! ## Byte streams -/

@[simp] theorem inputsOfBytes_cons_cons (b0 b1 : Byte) (rest : List Byte) :
    inputsOfBytes (b0 :: b1 :: rest) = ⟨b0, b1⟩ :: inputsOfBytes rest := rfl

@[simp] theorem inputsOfBytes_singleton (b : Byte) : inputsOfBytes [b] = [] := rfl

@[simp] theorem inputsOfBytes_nil : inputsOfBytes [] = [] := rfl

/-- Word `k` is bytes `2k` and `2k + 1`, by taking one pair off the stream for each word before it (R40, R42). -/
theorem getElem?_inputsOfBytes_eq_some_iff (bytes : List Byte) (k : Nat) (w : InputWord) :
    (inputsOfBytes bytes)[k]? = some w ↔ bytes[2 * k]? = some w.byte0 ∧ bytes[2 * k + 1]? = some w.byte1 := by
  induction bytes using inputsOfBytes.induct generalizing k with
  | case1 b0 b1 rest ih =>
    cases k with
    | zero => cases w; simp
    | succ k => simpa [Nat.mul_add] using ih k
  | case2 b => simp
  | case3 => simp

theorem inputsOfBytes_append_of_even (bytes more : List Byte) (h : bytes.length % 2 = 0) :
    inputsOfBytes (bytes ++ more) = inputsOfBytes bytes ++ inputsOfBytes more := by
  induction bytes using inputsOfBytes.induct with
  | case1 b0 b1 rest ih =>
    have hrest : rest.length % 2 = 0 := by simpa [Nat.add_assoc] using h
    simp [ih hrest]
  | case2 b => simp at h
  | case3 => rfl

/-! ## One evaluation and its iteration -/

/-- The state after one evaluation: the next word is presented and its decode driven. -/
def State.evaluate (s : State) : State :=
  s.present.drive (decode s.nextInput.byte0 s.nextInput.byte1)

section
variable (s : State)

theorem step_eq_evaluate : step s = .next s.evaluate := step_eq_drive s

@[simp] theorem State.evaluate_input : s.evaluate.input = s.nextInput := rfl
@[simp] theorem State.evaluate_pending : s.evaluate.pending = s.pending.tail := rfl
@[simp] theorem State.evaluate_result :
    s.evaluate.result = decode s.nextInput.byte0 s.nextInput.byte1 := rfl
@[simp] theorem State.evaluate_ports :
    s.evaluate.ports = drivePorts (decode s.nextInput.byte0 s.nextInput.byte1) s.nextInput := rfl

/-- No evaluation stops, so a run is the evaluations one after the other. -/
theorem run_eq_iterate_evaluate (k : Nat) : Host.Core.run core k s = .next (State.evaluate^[k] s) := by
  induction k generalizing s with
  | zero => rfl
  | succ k ih => exact (run_succ k s).trans (ih s.evaluate)

theorem run_succ_eq_evaluate_iterate (k : Nat) :
    Host.Core.run core (k + 1) s = .next (State.evaluate^[k] s).evaluate := by
  rw [← Function.iterate_succ_apply' State.evaluate]
  exact run_eq_iterate_evaluate s (k + 1)

theorem pending_iterate_evaluate (k : Nat) : (State.evaluate^[k] s).pending = s.pending.drop k := by
  induction k with
  | zero => rfl
  | succ k ih => rw [Function.iterate_succ_apply', State.evaluate_pending, ih, List.tail_drop]

end

/-- An evaluation reads the next word and what is to come after it, and nothing else of the state. -/
theorem evaluate_congr {s s' : State} (hinput : s.nextInput = s'.nextInput)
    (hpending : s.pending.tail = s'.pending.tail) : s.evaluate = s'.evaluate := by
  simp only [State.evaluate, State.present, State.drive, hinput, hpending]

/-- The word presented after `k` evaluations is word `k` of those to come. -/
theorem nextInput_iterate_evaluate {s : State} {k : Nat} {w : InputWord} (h : s.pending[k]? = some w) :
    (State.evaluate^[k] s).nextInput = w := by
  obtain ⟨hk, rfl⟩ := List.getElem?_eq_some_iff.mp h
  apply nextInput_of_pending (rest := s.pending.drop (k + 1))
  rw [pending_iterate_evaluate, List.drop_eq_getElem_cons hk]

/-- With no word to come the inputs hold their bytes (log entry 3), so a second evaluation repeats the first. -/
theorem evaluate_isFixedPt_of_empty {s : State} (h : s.pending = []) :
    Function.IsFixedPt State.evaluate s.evaluate := by
  have hpending : s.evaluate.pending = [] := by simp [h]
  have hinput : s.evaluate.nextInput = s.nextInput := nextInput_of_empty hpending
  exact evaluate_congr hinput (by simp [h])

/-! ## The obligations -/

/-- Settles O2: the bytes, NN, NNN and the word are concatenations of the fields. -/
theorem wordAssemblyAndFieldIdentities : Obligations.WordAssemblyAndFieldIdentities :=
  fun b0 b1 => ⟨wordOf_toNat b0 b1, nnField_toNat_eq b1, nnnField_toNat_eq b0 b1, wordOf_toNat_eq_lead_nnn b0 b1,
    fun _ _ hl hn => bytes_eq_of_lead_of_nnn hl hn⟩

/-- Settles O24: an evaluation's inputs, result and ports are functions of its next word alone. -/
theorem decodesAreIndependent : Obligations.DecodesAreIndependent := by
  refine ⟨fun s p q rest => ?_, fun s s' h => ?_⟩
  · exact ⟨_, _, _, _, step_eq_evaluate _, step_eq_evaluate _, step_eq_evaluate _, step_eq_evaluate _,
      rfl, rfl, rfl, rfl, rfl, rfl⟩
  · exact ⟨_, _, step_eq_evaluate s, step_eq_evaluate s', by simp [h], by simp [h], by simp [h]⟩

/-- Settles O25: one evaluation with no word to come reaches a fixed point of the evaluation. -/
theorem reevaluationChangesNothing : Obligations.ReevaluationChangesNothing := by
  intro s k h
  have hrun : Host.Core.run core (k + 1) s = .next (State.evaluate^[k] s.evaluate) := run_eq_iterate_evaluate s (k + 1)
  have hfix : State.evaluate^[k] s.evaluate = s.evaluate := (evaluate_isFixedPt_of_empty h).iterate k
  rw [hfix] at hrun
  exact hrun.trans (step_eq_evaluate s).symm

/-- Settles O26: `k` evaluations take the first `k` words off the list, and the next one presents word `k`. -/
theorem streamDecodesWordByWord : Obligations.StreamDecodesWordByWord := by
  intro s k w h
  have hnext : (State.evaluate^[k] s).nextInput = w := nextInput_iterate_evaluate h
  refine ⟨(State.evaluate^[k] s).evaluate, run_succ_eq_evaluate_iterate s k, hnext, ?_, ?_, ?_⟩
  · rw [State.evaluate_result, hnext]
  · rw [State.evaluate_ports, hnext]
  · rw [State.evaluate_pending, pending_iterate_evaluate, List.tail_drop]

/-- Settles O27, from the pairing of a stream and of a stream after whole words. -/
theorem byteStreamIsReadInBigEndianPairs : Obligations.ByteStreamIsReadInBigEndianPairs :=
  fun bytes k w => ⟨getElem?_inputsOfBytes_eq_some_iff bytes k w, inputsOfBytes_append_of_even bytes⟩

end Machine

end Sys2Proof

/-! # Proofs of the family 30_encoding.md

The dispatch keys, the rows of the opcode table and the encoder's two halves (fixed bits and operands) come first; the
obligations are settled after them. -/

namespace Sys2Proof

open Machine Laws

/-! ## The dispatch keys -/

section
variable {b0 b1 c0 c1 : Byte}

theorem variant?_decodeGroup0_congr (h : nField b1 = nField c1) :
    (decodeGroup0 b0 b1).variant? = (decodeGroup0 c0 c1).variant? := by
  rw [decodeGroup0, decodeGroup0, h]
  split <;> rfl

theorem variant?_decodeGroup8_congr (h : nField b1 = nField c1) :
    (decodeGroup8 b0 b1).variant? = (decodeGroup8 c0 c1).variant? := by
  rw [decodeGroup8, decodeGroup8, h]
  split <;> rfl

theorem variant?_decodeGroupE_congr (h : nnField b1 = nnField c1) :
    (decodeGroupE b0 b1).variant? = (decodeGroupE c0 c1).variant? := by
  rw [decodeGroupE, decodeGroupE, h]
  split <;> rfl

theorem variant?_decodeGroupF_congr (h : nnField b1 = nnField c1) :
    (decodeGroupF b0 b1).variant? = (decodeGroupF c0 c1).variant? := by
  rw [decodeGroupF, decodeGroupF, h]
  split <;> rfl

/-- The leading nibble and the secondary key select the variant: the sixteen branches of `decode`, four of which read a
secondary key (R65). -/
theorem variant?_decode_congr (hlead : leadField b0 = leadField c0)
    (hn : leadField c0 ∈ [0x0#4, 0x8#4] → nField b1 = nField c1)
    (hnn : leadField c0 ∈ [0xE#4, 0xF#4] → nnField b1 = nnField c1) :
    (decode b0 b1).variant? = (decode c0 c1).variant? := by
  rw [decode, decode, hlead]
  split
  case h_1 h => exact variant?_decodeGroup0_congr (hn (by simp [h]))
  case h_9 h => exact variant?_decodeGroup8_congr (hn (by simp [h]))
  case h_15 h => exact variant?_decodeGroupE_congr (hnn (by simp [h]))
  case h_16 =>
    have hF : leadField c0 = 0xF#4 := by
      have hcases := nibble_cases (leadField c0)
      simp_all
    exact variant?_decodeGroupF_congr (hnn (by simp [hF]))
  all_goals rfl

/-- X never selects a variant (R65). -/
theorem variant?_decode_byteOf (l x : Nibble) (b1 : Byte) :
    (decode (byteOf l x) b1).variant? = (decode (byteOf l 0x0#4) b1).variant? :=
  variant?_decode_congr (by simp) (fun _ => rfl) (fun _ => rfl)

theorem variant?_eq_some_iff {r : DecodeResult} {v : Variant} :
    r.variant? = some v ↔ ∃ i, r = .ok i ∧ i.variant = v := by
  cases r <;> simp [DecodeResult.variant?]

theorem variant?_eq_none_iff {r : DecodeResult} : r.variant? = none ↔ ∃ f, r = .err f := by
  cases r <;> simp [DecodeResult.variant?]

end

/-! ## How many words fail -/

/-- How many words with leading nibble `l` fail, X and then the second byte counted up. -/
def failingWords (l : Nibble) : Nat :=
  ((List.range 16).map fun x => ((List.range 256).filter fun b1 =>
    (decode (byteOf l (BitVec.ofNat 4 x)) (BitVec.ofNat 8 b1)).variant? == none).length).sum

/-- How many second bytes fail under the leading nibble `l` with X = 0. -/
def failingBytes (l : Nibble) : Nat :=
  ((List.range 256).filter fun b1 => (decode (byteOf l 0x0#4) (BitVec.ofNat 8 b1)).variant? == none).length

/-- X takes no part, so each of its sixteen values adds the same count. -/
theorem failingWords_eq_mul (l : Nibble) : failingWords l = 16 * failingBytes l := by
  have hx : ∀ x b1, (decode (byteOf l x) b1).variant? = (decode (byteOf l 0x0#4) b1).variant? :=
    variant?_decode_byteOf l
  simp only [failingWords, hx _ (BitVec.ofNat 8 _), List.map_const', List.sum_replicate, List.length_range, smul_eq_mul,
    failingBytes]

/-! The second bytes that fail, counted: seven values of N (R150), all NN but two (R163), all NN but nine (R180). -/

theorem failingBytes_lead8 : failingBytes 0x8#4 = 7 * 16 := by decide +kernel

theorem failingBytes_leadE : failingBytes 0xE#4 = 254 := by decide +kernel

theorem failingBytes_leadF : failingBytes 0xF#4 = 247 := by decide +kernel

/-- No other leading nibble has an illegal word (R66). -/
theorem failingBytes_eq_zero {l : Nibble} (h : l ∉ [0x8#4, 0xE#4, 0xF#4]) : failingBytes l = 0 := by
  have hok : ∀ b1, (decode (byteOf l 0x0#4) b1).variant? ≠ none := by
    intro b1 hnone
    obtain ⟨f, hf⟩ := variant?_eq_none_iff.mp hnone
    obtain ⟨⟨hl, -⟩ | ⟨hl, -⟩ | ⟨hl, -⟩, -⟩ := illegal_of_decode_err hf
    all_goals exact h (by simp [← hl])
  simp [failingBytes, hok]

theorem failingWords_eq (l : Nibble) : failingWords l =
    if l = 0x8#4 then 7 * 256 else if l = 0xE#4 then 16 * 254 else if l = 0xF#4 then 16 * 247 else 0 := by
  rw [failingWords_eq_mul]
  split_ifs with h8 hE hF
  · rw [h8, failingBytes_lead8]
  · rw [hE, failingBytes_leadE]
  · rw [hF, failingBytes_leadF]
  · rw [failingBytes_eq_zero (by simp [h8, hE, hF])]

/-! ## The rows of the opcode table by their keys -/

/-- The row whose fixed bits are the leading nibble. -/
def leadRow (v : Variant) (l : Nibble) : OpcodeRow :=
  ⟨v, 0xF000#16, wordOf (byteOf l 0x0#4) 0x00#8, []⟩

/-- The row whose fixed bits are the leading nibble and N. -/
def leadNRow (v : Variant) (l n : Nibble) : OpcodeRow :=
  ⟨v, 0xF00F#16, wordOf (byteOf l 0x0#4) (byteOf 0x0#4 n), []⟩

/-- The row whose fixed bits are the leading nibble and NN. -/
def leadNnRow (v : Variant) (l : Nibble) (nn : Byte) : OpcodeRow :=
  ⟨v, 0xF0FF#16, wordOf (byteOf l 0x0#4) nn, []⟩

/-- The one row with excludes: SysAddr's, without the words of ClearScreen and Return (R134). -/
def sysAddrRow : OpcodeRow :=
  { leadRow .sysAddr 0x0#4 with
    excludes := [((leadNRow .clearScreen 0x0#4 0x0#4).mask, (leadNRow .clearScreen 0x0#4 0x0#4).value),
      ((leadNRow .ret 0x0#4 0xE#4).mask, (leadNRow .ret 0x0#4 0xE#4).value)] }

section
variable (v : Variant) (l n : Nibble) (nn b0 b1 : Byte)

@[simp] theorem leadRow_selects : (leadRow v l).selects (wordOf b0 b1) = (leadField b0 == l) := by
  simp [OpcodeRow.selects, leadRow, maskMatches_lead]

@[simp] theorem leadNRow_selects :
    (leadNRow v l n).selects (wordOf b0 b1) = (leadField b0 == l && nField b1 == n) := by
  simp [OpcodeRow.selects, leadNRow, maskMatches_lead_n]

@[simp] theorem leadNnRow_selects :
    (leadNnRow v l nn).selects (wordOf b0 b1) = (leadField b0 == l && b1 == nn) := by
  simp [OpcodeRow.selects, leadNnRow, maskMatches_lead_nn]

@[simp] theorem sysAddrRow_selects :
    sysAddrRow.selects (wordOf b0 b1) = (leadField b0 == 0x0#4 && nField b1 != 0x0#4 && nField b1 != 0xE#4) := by
  cases h : leadField b0 == 0x0#4 <;>
    simp [OpcodeRow.selects, sysAddrRow, leadRow, leadNRow, maskMatches_lead, maskMatches_lead_n, h, bne]

end

/-- The row of each variant (R64). -/
def variantRow : Variant → OpcodeRow
  | .clearScreen => leadNRow .clearScreen 0x0#4 0x0#4
  | .ret => leadNRow .ret 0x0#4 0xE#4
  | .sysAddr => sysAddrRow
  | .jump => leadRow .jump 0x1#4
  | .call => leadRow .call 0x2#4
  | .skipEqImm => leadRow .skipEqImm 0x3#4
  | .skipNeImm => leadRow .skipNeImm 0x4#4
  | .skipEqReg => leadRow .skipEqReg 0x5#4
  | .loadImm => leadRow .loadImm 0x6#4
  | .addImm => leadRow .addImm 0x7#4
  | .move => leadNRow .move 0x8#4 0x0#4
  | .or => leadNRow .or 0x8#4 0x1#4
  | .and => leadNRow .and 0x8#4 0x2#4
  | .xor => leadNRow .xor 0x8#4 0x3#4
  | .addReg => leadNRow .addReg 0x8#4 0x4#4
  | .sub => leadNRow .sub 0x8#4 0x5#4
  | .shiftRight => leadNRow .shiftRight 0x8#4 0x6#4
  | .subReverse => leadNRow .subReverse 0x8#4 0x7#4
  | .shiftLeft => leadNRow .shiftLeft 0x8#4 0xE#4
  | .skipNeReg => leadRow .skipNeReg 0x9#4
  | .loadIndex => leadRow .loadIndex 0xA#4
  | .jumpOffset => leadRow .jumpOffset 0xB#4
  | .random => leadRow .random 0xC#4
  | .draw => leadRow .draw 0xD#4
  | .skipKeyPressed => leadNnRow .skipKeyPressed 0xE#4 0x9E#8
  | .skipKeyNotPressed => leadNnRow .skipKeyNotPressed 0xE#4 0xA1#8
  | .loadDelay => leadNnRow .loadDelay 0xF#4 0x07#8
  | .waitKey => leadNnRow .waitKey 0xF#4 0x0A#8
  | .setDelay => leadNnRow .setDelay 0xF#4 0x15#8
  | .setSound => leadNnRow .setSound 0xF#4 0x18#8
  | .addIndex => leadNnRow .addIndex 0xF#4 0x1E#8
  | .loadFont => leadNnRow .loadFont 0xF#4 0x29#8
  | .storeBcd => leadNnRow .storeBcd 0xF#4 0x33#8
  | .storeRegs => leadNnRow .storeRegs 0xF#4 0x55#8
  | .loadRegs => leadNnRow .loadRegs 0xF#4 0x65#8

/-- The opcode table is made of these rows. -/
theorem variantRow_of_mem_opcodeTable {r : OpcodeRow} (h : r ∈ opcodeTable) : variantRow r.variant = r := by
  revert r; decide

/-- The opcode table holds one row for each variant. -/
theorem filter_opcodeTable_variant (o : Option Variant) :
    (opcodeTable.filter fun r => o == some r.variant).map OpcodeRow.variant = o.toList := by
  cases o with
  | none => rfl
  | some v => cases v <;> rfl

section
variable {b0 b1 : Byte}

/-- The bits of a selected row are the condition of one dispatch line, and contradict those of the others. -/
theorem variant?_decode_of_selects {v : Variant} (h : (variantRow v).selects (wordOf b0 b1) = true) :
    (decode b0 b1).variant? = some v := by
  have hc := decode_cases b0 b1
  cases v
  all_goals
    simp [variantRow] at h
    simp [h] at hc
    simp [h, hc, DecodeResult.variant?, Instr.variant]

/-- The condition of the dispatch line that gave the instruction is its row's. -/
theorem selects_of_decode_ok {i : Instr} (h : decode b0 b1 = .ok i) :
    (variantRow i.variant).selects (wordOf b0 b1) = true := by
  have hc := decode_cases b0 b1
  cases i
  all_goals
    simp [h] at hc
    simp [variantRow, Instr.variant, hc]

end

/-- The mask rows and the dispatch select the same variants. -/
theorem selects_variantRow_iff {w : Word} {v : Variant} :
    (variantRow v).selects w = true ↔ (decodeWord w).variant? = some v := by
  rw [← wordOf_bytesOf w, decodeWord_wordOf]
  refine ⟨variant?_decode_of_selects, fun h => ?_⟩
  obtain ⟨i, hi, rfl⟩ := variant?_eq_some_iff.mp h
  exact selects_of_decode_ok hi

/-! ## The encoder writes a row's fixed bits and the operands -/

/-- The ignored bits are outside the masks; a SysAddr's low nibble keeps off its row's excludes by R133. -/
theorem selects_encodeWith {i : Instr} (h : i.wellFormed = true) (fill : Word) :
    (variantRow i.variant).selects (encodeWith fill i) = true := by
  cases i with
  | sysAddr nnn =>
    simpa [variantRow, Instr.variant, encodeWith, wordLeadNnn, nField_address_lo, Instr.wellFormed] using h
  | _ => simp [variantRow, Instr.variant, encodeWith, wordLeadNnn, wordLeadXNn, wordLeadXYN]

/-- The operand bits of an encoded word are the instruction's (R63), constructor by constructor. -/
theorem encode_keeps_operands : ∀ i : Instr, EncodeKeepsOperands.Statement i
  | .clearScreen => EncodeKeepsOperands.clearScreen
  | .ret => EncodeKeepsOperands.ret
  | .sysAddr nnn => EncodeKeepsOperands.sysAddr nnn
  | .jump nnn => EncodeKeepsOperands.jump nnn
  | .call nnn => EncodeKeepsOperands.call nnn
  | .skipEqImm x nn => EncodeKeepsOperands.skipEqImm x nn
  | .skipNeImm x nn => EncodeKeepsOperands.skipNeImm x nn
  | .skipEqReg x y => EncodeKeepsOperands.skipEqReg x y
  | .loadImm x nn => EncodeKeepsOperands.loadImm x nn
  | .addImm x nn => EncodeKeepsOperands.addImm x nn
  | .move x y => EncodeKeepsOperands.move x y
  | .or x y => EncodeKeepsOperands.or x y
  | .and x y => EncodeKeepsOperands.and x y
  | .xor x y => EncodeKeepsOperands.xor x y
  | .addReg x y => EncodeKeepsOperands.addReg x y
  | .sub x y => EncodeKeepsOperands.sub x y
  | .shiftRight x y => EncodeKeepsOperands.shiftRight x y
  | .subReverse x y => EncodeKeepsOperands.subReverse x y
  | .shiftLeft x y => EncodeKeepsOperands.shiftLeft x y
  | .skipNeReg x y => EncodeKeepsOperands.skipNeReg x y
  | .loadIndex nnn => EncodeKeepsOperands.loadIndex nnn
  | .jumpOffset nnn => EncodeKeepsOperands.jumpOffset nnn
  | .random x nn => EncodeKeepsOperands.random x nn
  | .draw x y n => EncodeKeepsOperands.draw x y n
  | .skipKeyPressed x => EncodeKeepsOperands.skipKeyPressed x
  | .skipKeyNotPressed x => EncodeKeepsOperands.skipKeyNotPressed x
  | .loadDelay x => EncodeKeepsOperands.loadDelay x
  | .waitKey x => EncodeKeepsOperands.waitKey x
  | .setDelay x => EncodeKeepsOperands.setDelay x
  | .setSound x => EncodeKeepsOperands.setSound x
  | .addIndex x => EncodeKeepsOperands.addIndex x
  | .loadFont x => EncodeKeepsOperands.loadFont x
  | .storeBcd x => EncodeKeepsOperands.storeBcd x
  | .storeRegs x => EncodeKeepsOperands.storeRegs x
  | .loadRegs x => EncodeKeepsOperands.loadRegs x

/-! ## The obligations -/

/-- Settles O32: the fixed bits of the encoded word select the variant's row, and its other fields are the operands. -/
theorem decodeInvertsEncode : Obligations.DecodeInvertsEncode := by
  intro i fill hwf
  obtain ⟨j, hj, hv⟩ := variant?_eq_some_iff.mp (selects_variantRow_iff.mp (selects_encodeWith hwf fill))
  have hji : j = i := by
    rw [← assemble_of_decode_ok hj (.ok i), hv]
    exact encode_keeps_operands i fill _
  exact hji ▸ hj

/-- Settles O5: X does not matter, and of the second bytes 112, 254, 247 or none fail. -/
theorem failingWordCounts : Obligations.FailingWordCounts := by
  have hsum : ((List.range 16).map fun l => failingWords (BitVec.ofNat 4 l)).sum = 9808 := by
    simp only [failingWords_eq]
    decide
  refine ⟨failingWords_eq 0x8#4, failingWords_eq 0xE#4, failingWords_eq 0xF#4, fun l hl => ?_, hsum⟩
  exact (failingWords_eq_mul l).trans (by rw [failingBytes_eq_zero hl])

/-- Settles O7: the branches of the decoder read the keys alone. -/
theorem dispatchKeysSelectTheVariant : Obligations.DispatchKeysSelectTheVariant :=
  fun _ _ _ _ hlead hn hnn => variant?_decode_congr hlead (hlead ▸ hn) (hlead ▸ hnn)

/-- Settles O35: a row is selected exactly when its variant is the decoded one, and each variant has one row. -/
theorem opcodeTableAndDecoderAgree : Obligations.OpcodeTableAndDecoderAgree := by
  intro w
  have hrow : ∀ r ∈ opcodeTable, r.selects w = ((decodeWord w).variant? == some r.variant) := by
    intro r hr
    rw [Bool.eq_iff_iff, beq_iff_eq, ← selects_variantRow_iff, variantRow_of_mem_opcodeTable hr]
  rw [List.filter_congr hrow, filter_opcodeTable_variant]

/-- Settles O36: tag and variant are inverse to each other below 35. -/
theorem tagsNumberTheVariants : Obligations.TagsNumberTheVariants := by
  have hlt : ∀ t : Tag, (variantOfTag t).isSome = true ↔ t.toNat < 35 := by decide
  refine ⟨fun v => ⟨variantTag_toNat_lt v, variantOfTag_variantTag v⟩, hlt, fun t v hv => ?_⟩
  have ht : t.toNat < 35 := (hlt t).mp (by rw [hv]; rfl)
  obtain ⟨u, rfl⟩ := exists_variantTag_eq (Nat.le_of_lt_succ ht)
  rw [variantOfTag_variantTag] at hv
  rw [Option.some.inj hv]

/-- Settles O38, by evaluation of the eight words. -/
theorem writtenOutWordsDecode : Obligations.WrittenOutWordsDecode := by
  unfold Obligations.WrittenOutWordsDecode
  decide

end Sys2Proof

/-! # Proofs of the family 40_field_extractor.md

A shift and mask of a number is a slice of it, each field is a slice of the word, and a constructor keeps the low bits of
its number; the obligations are settled after these. -/

namespace Sys2Proof

/-! ## Shift and mask -/

/-- A slice from bit `start` on is a shift by `start` and the mask of its width. -/
theorem toNat_eq_shift_and_mask {w start len : Nat} {v : BitVec w} {field : BitVec len}
    (h : field = v.extractLsb' start len) : field.toNat = v.toNat >>> start &&& (2 ^ len - 1) := by
  rw [h, BitVec.extractLsb'_toNat, Nat.and_two_pow_sub_one_eq_mod]

/-! ## The fields as slices of the word (R81 to R86) -/

section
variable (b0 b1 : Byte)

theorem leadField_eq_wordSlice : leadField b0 = (wordOf b0 b1).extractLsb' 12 4 := by
  apply BitVec.eq_of_toNat_eq; rw [leadField, slice_toNat, slice_toNat, wordOf_toNat]; omega

theorem xField_eq_wordSlice : xField b0 = (wordOf b0 b1).extractLsb' 8 4 := by
  apply BitVec.eq_of_toNat_eq; rw [xField, slice_toNat, slice_toNat, wordOf_toNat]; omega

theorem yField_eq_wordSlice : yField b1 = (wordOf b0 b1).extractLsb' 4 4 := by
  apply BitVec.eq_of_toNat_eq; rw [yField, slice_toNat, slice_toNat, wordOf_toNat]; omega

theorem nField_eq_wordSlice : nField b1 = (wordOf b0 b1).extractLsb' 0 4 := by
  apply BitVec.eq_of_toNat_eq; rw [nField, slice_toNat, slice_toNat, wordOf_toNat]; omega

theorem nnField_eq_wordSlice : nnField b1 = (wordOf b0 b1).extractLsb' 0 8 :=
  (byte1Of_wordOf b0 b1).symm

theorem nnnField_eq_wordSlice : nnnField b0 b1 = (wordOf b0 b1).extractLsb' 0 12 := by
  apply BitVec.eq_of_toNat_eq; rw [slice_toNat, wordOf_toNat_eq_lead_nnn]; omega

/-! ## The nibble fields as numbers of their byte -/

theorem leadField_toNat : (leadField b0).toNat = b0.toNat / 16 := by
  rw [leadField, slice_toNat]; omega

theorem xField_toNat : (xField b0).toNat = b0.toNat % 16 := by
  rw [xField, slice_toNat]; omega

theorem yField_toNat : (yField b1).toNat = b1.toNat / 16 := leadField_toNat b1

theorem nField_toNat : (nField b1).toNat = b1.toNat % 16 := xField_toNat b1

end

/-! ## The constructors on any number (R89 to R91) -/

/-- The mask keeps the bits that the width keeps. -/
theorem ofNat_and_mask (n v : Nat) : BitVec.ofNat n (v &&& (2 ^ n - 1)) = BitVec.ofNat n v := by
  apply BitVec.eq_of_toNat_eq
  rw [BitVec.toNat_ofNat, BitVec.toNat_ofNat, Nat.and_two_pow_sub_one_eq_mod, Nat.mod_mod]

section
variable (v : Nat)

theorem mkAddress_toNat : (mkAddress v).toNat = v % 4096 :=
  congrArg BitVec.toNat (ofNat_and_mask 12 v)

theorem mkRegisterIndex_toNat : (mkRegisterIndex v).toNat = v % 16 :=
  congrArg BitVec.toNat (ofNat_and_mask 4 v)

theorem mkAddress_mod : mkAddress (v % 4096) = mkAddress v := by
  apply BitVec.eq_of_toNat_eq; rw [mkAddress_toNat, mkAddress_toNat, Nat.mod_mod]

theorem mkRegisterIndex_mod : mkRegisterIndex (v % 16) = mkRegisterIndex v := by
  apply BitVec.eq_of_toNat_eq; rw [mkRegisterIndex_toNat, mkRegisterIndex_toNat, Nat.mod_mod]

end

/-! ## The obligations -/

/-- Settles O1: each field is a slice of its byte by definition and a slice of the word, which is a shift and mask. -/
theorem fieldsAreConstantShiftsAndMasks : Obligations.FieldsAreConstantShiftsAndMasks := by
  intro b0 b1 w
  have hnnn : (nnnField b0 b1).toNat = b0.toNat % 16 * 256 + b1.toNat := by
    rw [nnnField_toNat_eq, xField_toNat, nnField_eq]
  exact ⟨⟨leadField_toNat b0, toNat_eq_shift_and_mask (leadField_eq_wordSlice b0 b1)⟩,
    ⟨xField_toNat b0, toNat_eq_shift_and_mask (xField_eq_wordSlice b0 b1)⟩,
    ⟨yField_toNat b1, toNat_eq_shift_and_mask (yField_eq_wordSlice b0 b1)⟩,
    ⟨nField_toNat b1, toNat_eq_shift_and_mask (nField_eq_wordSlice b0 b1)⟩,
    ⟨congrArg BitVec.toNat (nnField_eq b1), toNat_eq_shift_and_mask (nnField_eq_wordSlice b0 b1)⟩,
    ⟨hnnn, toNat_eq_shift_and_mask (nnnField_eq_wordSlice b0 b1)⟩⟩

/-- Settles O3: masking is reduction modulo the width's power of two, and a field is already below it. -/
theorem constructorsMaskWiderValues : Obligations.ConstructorsMaskWiderValues := by
  refine ⟨fun v => ⟨?addressMask, mkAddress_toNat v, (mkAddress_mod v).symm⟩,
    fun v => ⟨?registerMask, mkRegisterIndex_toNat v, (mkRegisterIndex_mod v).symm⟩,
    fun _ _ => BitVec.toNat_inj.symm,
    fun _ _ => ⟨mkAddress_toNat_eq _, mkRegisterIndex_toNat_eq _, mkRegisterIndex_toNat_eq _⟩⟩
  case addressMask => exact (mkAddress_toNat v).trans (Nat.and_two_pow_sub_one_eq_mod v 12).symm
  case registerMask => exact (mkRegisterIndex_toNat v).trans (Nat.and_two_pow_sub_one_eq_mod v 4).symm

end Sys2Proof

/-! # Proofs of the family 41_primary_dispatch.md

The rows with the leading nibble alone as their key, the decoded word written back by the encoder, and what a meaning emits
come first; the obligations are settled after them. -/

namespace Sys2Proof

open Machine

/-! ## The leading nibble and the variant -/

/-- The leading nibble of the words of a variant, from its row. -/
def variantLead (v : Variant) : Nibble := leadField (byte0Of (variantRow v).value)

section
variable {b0 b1 : Byte}

/-- Every row fixes the leading nibble. -/
theorem leadField_eq_variantLead_of_selects {v : Variant} (h : (variantRow v).selects (wordOf b0 b1) = true) :
    leadField b0 = variantLead v := by
  cases v
  all_goals
    simp [variantRow] at h
    simp only [h]
    rfl

theorem leadField_of_decode_ok {i : Instr} (h : decode b0 b1 = .ok i) : leadField b0 = variantLead i.variant :=
  leadField_eq_variantLead_of_selects (selects_of_decode_ok h)

/-- No word under an unconditional nibble is one of R66's failures. -/
theorem exists_decode_ok_of_unconditional (h : leadField b0 ∈ unconditionalNibbles) (b1 : Byte) :
    ∃ i, decode b0 b1 = .ok i := by
  cases hd : decode b0 b1 with
  | ok i => exact ⟨i, rfl⟩
  | err f =>
    obtain ⟨⟨hl, -⟩ | ⟨hl, -⟩ | ⟨hl, -⟩, -⟩ := illegal_of_decode_err hd
    all_goals exact absurd h (by rw [hl]; decide)

/-- A variant whose row is its leading nibble is decoded from every word with that nibble, over the fields of the word. -/
theorem decode_of_leadRow {v : Variant} {l : Nibble} (hrow : variantRow v = leadRow v l) (h : leadField b0 = l) :
    decode b0 b1 = .ok (assemble v (drivePorts (decode b0 b1) ⟨b0, b1⟩)) := by
  have hsel : (variantRow v).selects (wordOf b0 b1) = true := by simp [hrow, h]
  obtain ⟨i, hi, rfl⟩ := variant?_eq_some_iff.mp (variant?_decode_of_selects hsel)
  rw [assemble_of_decode_ok hi, hi]

theorem instrOperands_of_decode_ok {i : Instr} (h : decode b0 b1 = .ok i) (r : DecodeResult) :
    instrOperands i = formatOperands (variantFormat i.variant) (drivePorts r ⟨b0, b1⟩) := by
  rw [← instrOperands_assemble, assemble_of_decode_ok h]

end

/-! ## The decoded instruction and its word -/

section
variable {b0 b1 : Byte} {l : Nibble}

theorem wordLeadNnn_fields (hl : leadField b0 = l) : wordLeadNnn l (nnnField b0 b1) = wordOf b0 b1 := by
  simp [wordLeadNnn, nnnField, ← hl]

theorem wordLeadXNn_fields (hl : leadField b0 = l) : wordLeadXNn l (xField b0) b1 = wordOf b0 b1 := by
  simp [wordLeadXNn, ← hl]

theorem wordLeadXYN_fields {n : Nibble} (hl : leadField b0 = l) (hn : nField b1 = n) :
    wordLeadXYN l (xField b0) (yField b1) n = wordOf b0 b1 := by
  simp [wordLeadXYN, ← hl, ← hn]

/-- The dispatch line of each variant names its fixed bits and its operand fields, and the ignored bits come from the word
itself, so the encoder writes the word back. -/
theorem encodeWith_of_decode_ok {i : Instr} (h : decode b0 b1 = .ok i) :
    encodeWith (wordOf b0 b1) i = wordOf b0 b1 := by
  have hc := decode_cases b0 b1
  cases i
  all_goals
    simp [h] at hc
    simp [encodeWith, hc, wordLeadNnn_fields, wordLeadXNn_fields, wordLeadXYN_fields, ← xField_eq_wordSlice,
      ← yField_eq_wordSlice, ← nField_eq_wordSlice]

end

section
variable {b0 b1 c0 c1 : Byte} {i : Instr}

/-- An instruction whose encoding has no ignored bits has one word. -/
theorem bytes_eq_of_decode_ok (hfill : ∀ w w', encodeWith w i = encodeWith w' i) (hb : decode b0 b1 = .ok i)
    (hc : decode c0 c1 = .ok i) : b0 = c0 ∧ b1 = c1 := by
  rw [← wordOf_inj, ← encodeWith_of_decode_ok hb, ← encodeWith_of_decode_ok hc]
  exact hfill _ _

/-- The words of one instruction of format FXY can differ only in N, which it does not carry. -/
theorem eq_up_to_n_of_decode_ok (hformat : variantFormat i.variant = .FXY) (hb : decode b0 b1 = .ok i)
    (hc : decode c0 c1 = .ok i) : b0 = c0 ∧ yField b1 = yField c1 := by
  have hops := (instrOperands_of_decode_ok hb (.ok i)).symm.trans (instrOperands_of_decode_ok hc (.ok i))
  obtain ⟨hx, hy⟩ : xField b0 = xField c0 ∧ yField b1 = yField c1 := by simpa [hformat, formatOperands] using hops
  refine ⟨?_, hy⟩
  rw [← byteOf_lead_x b0, ← byteOf_lead_x c0, hx, leadField_of_decode_ok hb, leadField_of_decode_ok hc]

/-- On the twelve nibbles only the two variants without N are the decode of more than one word (R115). -/
theorem eq_or_eq_up_to_n_of_decode_ok (hl : leadField b0 ∈ unconditionalNibbles) (hb : decode b0 b1 = .ok i)
    (hc : decode c0 c1 = .ok i) :
    (b0 = c0 ∧ b1 = c1) ∨ (leadField b0 ∈ [0x5#4, 0x9#4] ∧ b0 = c0 ∧ yField b1 = yField c1) := by
  have hlead := leadField_of_decode_ok hb
  cases i with
  | clearScreen | ret => exact absurd hl (by rw [hlead]; decide)
  | skipEqReg x y | skipNeReg x y =>
    exact .inr ⟨by rw [hlead, Instr.variant]; decide, eq_up_to_n_of_decode_ok rfl hb hc⟩
  | _ => exact .inl (bytes_eq_of_decode_ok (fun _ _ => rfl) hb hc)

/-- The two variants without N do not tell words apart that differ only in N. -/
theorem decode_congr_up_to_n (hl : leadField b0 ∈ [0x5#4, 0x9#4]) (hy : yField b1 = yField c1) :
    decode b0 b1 = decode b0 c1 := by
  have h59 : leadField b0 = 0x5#4 ∨ leadField b0 = 0x9#4 := by simpa using hl
  rcases h59 with h | h
  · rw [decode_of_leadRow (v := .skipEqReg) (b1 := b1) rfl h, decode_of_leadRow (v := .skipEqReg) (b1 := c1) rfl h]
    simp [assemble, hy]
  · rw [decode_of_leadRow (v := .skipNeReg) (b1 := b1) rfl h, decode_of_leadRow (v := .skipNeReg) (b1 := c1) rfl h]
    simp [assemble, hy]

/-- The ports hold the word whatever result is driven. -/
theorem bytes_eq_of_drivePorts_eq {r r' : DecodeResult} (h : drivePorts r ⟨b0, b1⟩ = drivePorts r' ⟨c0, c1⟩) :
    b0 = c0 ∧ b1 = c1 :=
  bytes_eq_of_lead_of_nnn (congrArg Ports.fLead h) (congrArg Ports.fNnn h)

end

/-! ## What a meaning emits -/

/-- Every meaning's next state is the one written out port by port, under its variant's tag. -/
theorem exec_eq_emitted (i : Instr) (s : State) : exec i s = .next (emitted s i (variantTag i.variant)) :=
  exec_eq_emit i s

/-! ## The obligations -/

/-- Settles O33: the decode of an encoding is the instruction, and the encoding of a decode is the word. -/
theorem everyVariantRoundTrips : Obligations.EveryVariantRoundTrips := by
  refine ⟨exists_word_of_variant, fun w i => ⟨fun h => ⟨wellFormed_of_decode_ok h, ?_⟩, fun ⟨hwf, hw⟩ => ?_⟩⟩
  · have hbytes := encodeWith_of_decode_ok h
    rwa [wordOf_bytesOf] at hbytes
  · have hdec := decodeInvertsEncode i w hwf
    rwa [hw] at hdec

/-- Settles O6: the leading nibble is the whole key of these words, and the variant's row gives it back. -/
theorem unconditionalNibblesSelectTheirVariantAlone : Obligations.UnconditionalNibblesSelectTheirVariantAlone := by
  intro b0 b1 c0 c1 hb hc
  obtain ⟨i, hi⟩ := exists_decode_ok_of_unconditional hb b1
  obtain ⟨j, hj⟩ := exists_decode_ok_of_unconditional hc c1
  refine ⟨i, j, hi, hj, ⟨fun hv => ?_, fun hlead => ?_⟩, instrOperands_of_decode_ok hi _⟩
  · rw [leadField_of_decode_ok hi, leadField_of_decode_ok hj, hv]
  · have hkeys : ∀ l ∈ unconditionalNibbles, l ∉ [0x0#4, 0x8#4] ∧ l ∉ [0xE#4, 0xF#4] := by decide
    obtain ⟨hn, hnn⟩ := hkeys _ hc
    have hv := variant?_decode_congr (b1 := b1) (c1 := c1) hlead (absurd · hn) (absurd · hnn)
    rw [hi, hj] at hv
    exact Option.some.inj hv

/-- Settles O9: each of the twelve rows is a leading nibble, and its variant is put together from the fields. -/
theorem unconditionalVariantsDecode : Obligations.UnconditionalVariantsDecode := fun _ _ =>
  ⟨decode_of_leadRow (v := .jump) rfl, decode_of_leadRow (v := .call) rfl, decode_of_leadRow (v := .skipEqImm) rfl,
    decode_of_leadRow (v := .skipNeImm) rfl, decode_of_leadRow (v := .skipEqReg) rfl,
    decode_of_leadRow (v := .loadImm) rfl, decode_of_leadRow (v := .addImm) rfl,
    decode_of_leadRow (v := .skipNeReg) rfl, decode_of_leadRow (v := .loadIndex) rfl,
    decode_of_leadRow (v := .jumpOffset) rfl, decode_of_leadRow (v := .random) rfl, decode_of_leadRow (v := .draw) rfl⟩

/-- Settles O34: operands and ports are fields of the word, and a decode tells all words apart but those that differ in an N
its variant does not carry. -/
theorem unconditionalOperandsAreFaithful : Obligations.UnconditionalOperandsAreFaithful := by
  intro b0 b1 c0 c1 hl
  refine ⟨fun i hi => instrOperands_of_decode_ok hi _, ⟨fun h => ?_, ?_⟩, fun _ _ => bytes_eq_of_drivePorts_eq⟩
  · obtain ⟨i, hi⟩ := exists_decode_ok_of_unconditional hl b1
    exact eq_or_eq_up_to_n_of_decode_ok hl hi (h.symm.trans hi)
  · rintro (⟨rfl, rfl⟩ | ⟨h59, rfl, hy⟩)
    · rfl
    · exact decode_congr_up_to_n h59 hy

/-- Settles O8, by the rows of Jump and LoadImm. -/
theorem jumpAndLoadImmDecode : Obligations.JumpAndLoadImmDecode :=
  fun _ _ => ⟨decode_of_leadRow (v := .jump) rfl, decode_of_leadRow (v := .loadImm) rfl⟩

/-- Settles O16: the tag written out for each variant is its tag in R64. -/
theorem unconditionalMeaningsEmit : Obligations.UnconditionalMeaningsEmit := fun s =>
  ⟨fun _ => exec_eq_emitted _ s, fun _ => exec_eq_emitted _ s, fun _ _ => exec_eq_emitted _ s,
    fun _ _ => exec_eq_emitted _ s, fun _ _ => exec_eq_emitted _ s, fun _ _ => exec_eq_emitted _ s,
    fun _ _ => exec_eq_emitted _ s, fun _ _ => exec_eq_emitted _ s, fun _ => exec_eq_emitted _ s,
    fun _ => exec_eq_emitted _ s, fun _ _ => exec_eq_emitted _ s, fun _ _ _ => exec_eq_emitted _ s⟩

end Sys2Proof

/-! # Proofs of the family 42_group0.md

A word that selects a row decodes to the row's variant over its own fields; the obligations are settled after this. -/

namespace Sys2Proof

open Machine

/-! ## From a selected row to the decoded instruction -/

section
variable {b0 b1 : Byte} {v : Variant}

/-- The selected row names the variant, and the fields of the word are its operands. -/
theorem decode_of_selects (h : (variantRow v).selects (wordOf b0 b1) = true) :
    decode b0 b1 = .ok (assemble v (drivePorts (decode b0 b1) ⟨b0, b1⟩)) := by
  obtain ⟨i, hi, rfl⟩ := variant?_eq_some_iff.mp (variant?_decode_of_selects h)
  rw [assemble_of_decode_ok hi, hi]

/-- A variant whose row is its leading nibble and N is decoded from every word with both. -/
theorem decode_of_leadNRow {l n : Nibble} (hrow : variantRow v = leadNRow v l n) (hl : leadField b0 = l)
    (hn : nField b1 = n) : decode b0 b1 = .ok (assemble v (drivePorts (decode b0 b1) ⟨b0, b1⟩)) :=
  decode_of_selects (by simp [hrow, hl, hn])

/-- SysAddr's row keeps only N = 0x0 and N = 0xE out (R133, R134). -/
theorem decode_of_sysAddrRow (hl : leadField b0 = 0x0#4) (h0 : nField b1 ≠ 0x0#4) (hE : nField b1 ≠ 0xE#4) :
    decode b0 b1 = .ok (.sysAddr (nnnField b0 b1)) :=
  decode_of_selects (v := .sysAddr) (by simp [variantRow, hl, h0, hE])

end

/-! ## The obligations -/

/-- Settles O10: N = 0x0 and N = 0xE select the rows of ClearScreen and Return, every other N the row of SysAddr. -/
theorem groupZeroDispatchesOnN : Obligations.GroupZeroDispatchesOnN := fun _ _ hl =>
  ⟨decode_of_leadNRow (v := .clearScreen) rfl hl, decode_of_leadNRow (v := .ret) rfl hl, decode_of_sysAddrRow hl⟩

/-- Settles O15: the tags written out for the three variants are theirs in R64. -/
theorem groupZeroMeaningsEmit : Obligations.GroupZeroMeaningsEmit := fun s =>
  ⟨exec_eq_emitted _ s, exec_eq_emitted _ s, fun _ => exec_eq_emitted _ s⟩

end Sys2Proof

/-! # Proofs of the family 43_group8.md

The failing words from both sides come first: no decoded word is illegal, and every illegal word fails. The obligations are
settled after them. -/

namespace Sys2Proof

open Machine

/-! ## The illegal words fail, and no other word does -/

section
variable {b0 b1 : Byte}

/-- The key a row fixes is in none of the failing lists of R66. -/
theorem not_illegal_of_decode_ok {i : Instr} (h : decode b0 b1 = .ok i) : ¬ illegal b0 b1 := by
  have hsel := selects_of_decode_ok h
  cases i
  all_goals
    simp [variantRow, Instr.variant] at hsel
    simp [illegal, hsel]

/-- An illegal word fails with the whole word (R150, R163, R180). -/
theorem decode_of_illegal (h : illegal b0 b1) : decode b0 b1 = .err ⟨wordOf b0 b1⟩ := by
  cases hd : decode b0 b1 with
  | ok i => exact absurd h (not_illegal_of_decode_ok hd)
  | err f =>
    obtain ⟨-, rfl⟩ := illegal_of_decode_err hd
    rfl

end

/-- Each of the sixteen N under 0x8 is in R140's list or in R150's. -/
theorem mem_failingN_of_not_mem_definedN {n : Nibble}
    (h : n ∉ [0x0#4, 0x1#4, 0x2#4, 0x3#4, 0x4#4, 0x5#4, 0x6#4, 0x7#4, 0xE#4]) :
    n ∈ [0x8#4, 0x9#4, 0xA#4, 0xB#4, 0xC#4, 0xD#4, 0xF#4] := by
  revert n; decide

/-! ## The obligations -/

/-- Settles O4: a failed decode has an illegal word, and a decoded instruction is well-formed on a word that is not. -/
theorem decodeFailsExactlyOnIllegalWords : Obligations.DecodeFailsExactlyOnIllegalWords := by
  intro b0 b1
  cases hd : decode b0 b1 with
  | ok i => exact .inr ⟨not_illegal_of_decode_ok hd, i, wellFormed_of_decode_ok hd, rfl⟩
  | err f =>
    obtain ⟨hill, rfl⟩ := illegal_of_decode_err hd
    exact .inl ⟨hill, rfl⟩

/-- Settles O12: each defined N selects its variant's row, and the words with any other N are illegal. -/
theorem groupEightDispatchesOnN : Obligations.GroupEightDispatchesOnN := fun _ _ hl =>
  ⟨decode_of_leadNRow (v := .move) rfl hl, decode_of_leadNRow (v := .or) rfl hl, decode_of_leadNRow (v := .and) rfl hl,
    decode_of_leadNRow (v := .xor) rfl hl, decode_of_leadNRow (v := .addReg) rfl hl,
    decode_of_leadNRow (v := .sub) rfl hl, decode_of_leadNRow (v := .shiftRight) rfl hl,
    decode_of_leadNRow (v := .subReverse) rfl hl, decode_of_leadNRow (v := .shiftLeft) rfl hl,
    fun hn => decode_of_illegal (.inl ⟨hl, mem_failingN_of_not_mem_definedN hn⟩)⟩

/-- Settles O11: the row of AddReg, and the example's bytes, which select it. -/
theorem addWithCarryDecodes : Obligations.AddWithCarryDecodes :=
  ⟨fun _ _ => decode_of_leadNRow (v := .addReg) rfl,
    decode_of_leadNRow (v := .addReg) (b0 := 0x8B#8) (b1 := 0x34#8) rfl rfl rfl⟩

/-- Settles O17: the tags written out for the nine variants are theirs in R64. -/
theorem groupEightMeaningsEmit : Obligations.GroupEightMeaningsEmit := fun s =>
  ⟨fun _ _ => exec_eq_emitted _ s, fun _ _ => exec_eq_emitted _ s, fun _ _ => exec_eq_emitted _ s,
    fun _ _ => exec_eq_emitted _ s, fun _ _ => exec_eq_emitted _ s, fun _ _ => exec_eq_emitted _ s,
    fun _ _ => exec_eq_emitted _ s, fun _ _ => exec_eq_emitted _ s, fun _ _ => exec_eq_emitted _ s⟩

end Sys2Proof

/-! # Proofs of the family 44_groupE.md

The rows whose key is the leading nibble and NN come first; the obligations are settled after them. -/

namespace Sys2Proof

open Machine

/-! ## From a row of leading nibble and NN to the decoded instruction -/

/-- A variant whose row is its leading nibble and NN is decoded from every word with both. -/
theorem decode_of_leadNnRow {b0 b1 : Byte} {v : Variant} {l : Nibble} {nn : Byte} (hrow : variantRow v = leadNnRow v l nn)
    (hl : leadField b0 = l) (hnn : nnField b1 = nn) :
    decode b0 b1 = .ok (assemble v (drivePorts (decode b0 b1) ⟨b0, b1⟩)) :=
  decode_of_selects (by simp [hrow, hl, ← hnn])

/-! ## The obligations -/

/-- Settles O13: NN = 0x9E and NN = 0xA1 select the rows of the two skips, and the words with any other NN are illegal. -/
theorem groupEDispatchesOnNn : Obligations.GroupEDispatchesOnNn := fun _ _ hl =>
  ⟨decode_of_leadNnRow (v := .skipKeyPressed) rfl hl, decode_of_leadNnRow (v := .skipKeyNotPressed) rfl hl,
    fun hnn => decode_of_illegal (.inr (.inl ⟨hl, hnn⟩))⟩

/-- Settles O18: the tags written out for the two variants are theirs in R64. -/
theorem groupEMeaningsEmit : Obligations.GroupEMeaningsEmit := fun s =>
  ⟨fun _ => exec_eq_emitted _ s, fun _ => exec_eq_emitted _ s⟩

end Sys2Proof

/-! # Proofs of the family 45_groupF.md

The rows of the nine variants and the words that select none of them are covered by the lemmas of the families before. -/

namespace Sys2Proof

/-! ## The obligations -/

/-- Settles O14: each of the nine NN selects its variant's row, and the words with any other NN are illegal. -/
theorem groupFDispatchesOnNn : Obligations.GroupFDispatchesOnNn := fun _ _ hl =>
  ⟨decode_of_leadNnRow (v := .loadDelay) rfl hl, decode_of_leadNnRow (v := .waitKey) rfl hl,
    decode_of_leadNnRow (v := .setDelay) rfl hl, decode_of_leadNnRow (v := .setSound) rfl hl,
    decode_of_leadNnRow (v := .addIndex) rfl hl, decode_of_leadNnRow (v := .loadFont) rfl hl,
    decode_of_leadNnRow (v := .storeBcd) rfl hl, decode_of_leadNnRow (v := .storeRegs) rfl hl,
    decode_of_leadNnRow (v := .loadRegs) rfl hl, fun hnn => decode_of_illegal (.inr (.inr ⟨hl, hnn⟩))⟩

/-- Settles O19: the tags written out for the nine variants are theirs in R64. -/
theorem groupFMeaningsEmit : Obligations.GroupFMeaningsEmit := fun s =>
  ⟨fun _ => exec_eq_emitted _ s, fun _ => exec_eq_emitted _ s, fun _ => exec_eq_emitted _ s,
    fun _ => exec_eq_emitted _ s, fun _ => exec_eq_emitted _ s, fun _ => exec_eq_emitted _ s,
    fun _ => exec_eq_emitted _ s, fun _ => exec_eq_emitted _ s, fun _ => exec_eq_emitted _ s⟩

end Sys2Proof

/-! # Proofs of the family 60_exceptions.md

A step on an illegal word comes first; the obligations are settled after it. -/

namespace Sys2Proof

open Machine

/-! ## A step whose decode fails -/

section
variable {s : State}

/-- Driving a failure leaves the state written out port by port (R200, R202). -/
theorem drive_err_eq_failed (f : DecodeFailure) : s.drive (.err f) = failed s f.word := rfl

/-- A failing decode is a next state of the step, not a stop (R203, R208). -/
theorem step_of_decode_err {f : DecodeFailure} (h : decode s.nextInput.byte0 s.nextInput.byte1 = .err f) :
    step s = .next (failed s.present f.word) := by
  rw [step_eq_drive, h, drive_err_eq_failed]

/-- A step on an illegal word records that word (R201, R202). -/
theorem step_of_illegal (h : illegal s.nextInput.byte0 s.nextInput.byte1) :
    step s = .next (failed s.present s.nextInput.word) :=
  step_of_decode_err (decode_of_illegal h)

end

/-! ## The obligations -/

/-- Settles O22: the step records the failure, and a step on a placed word drives that word's decode from any state. -/
theorem decodeFailureIsARecoverableResult : Obligations.DecodeFailureIsARecoverableResult := by
  intro s hill
  refine ⟨failed s.present s.nextInput.word, step_of_illegal hill, rfl, rfl, rfl, rfl, fun w => ?nextDecode⟩
  case nextDecode =>
    obtain ⟨u, hstep, hresult, -⟩ := step_placeNextWord (failed s.present s.nextInput.word) w
    exact ⟨u, hstep, hresult⟩

/-- Settles O23: the step records the word, whose leading nibble and NNN are the ports `f_lead` and `f_nnn` (R88). -/
theorem failureRecordsTheWord : Obligations.FailureRecordsTheWord := fun s hill =>
  ⟨failed s.present s.nextInput.word, ⟨s.nextInput.word⟩, step_of_illegal hill, rfl, rfl, rfl, rfl, rfl,
    lead_append_nnn_drivePorts (.err ⟨s.nextInput.word⟩) s.nextInput⟩

end Sys2Proof

/-! # Proofs of the family 70_reset_and_hazards.md

What a step presents and a step on a word that decodes come first; the obligation is settled after them. -/

namespace Sys2Proof

open Machine

/-! ## The presented state and the step from it -/

section
variable {s : State}

/-- The word presented (R232) is taken off the words to come (log entry 3). -/
theorem present_of_pending {w : InputWord} {rest : List InputWord} (h : s.pending = w :: rest) :
    s.present = { s with input := w, pending := rest } := by
  rw [State.present, nextInput_of_pending h, h, List.tail_cons]

/-- With no word to come, presenting changes nothing (log entry 3). -/
theorem present_of_empty (h : s.pending = []) : s.present = s := by
  rw [State.present, nextInput_of_empty h, h, List.tail_nil, ← h]

/-- A step on a word that decodes is the meaning of the instruction, run at the presented state (R234). -/
theorem step_of_decode_ok {i : Instr} (h : decode s.nextInput.byte0 s.nextInput.byte1 = .ok i) :
    step s = exec i s.present := by
  rw [step, h]

end

/-! ## The obligation -/

/-- Settles O21: the decode selects the meaning or the failure, and the words to come select the presented state. -/
theorem stepRunsTheDecodedInstruction : Obligations.StepRunsTheDecodedInstruction := by
  refine fun s => ⟨fun w rest i hs hd => ?pendingOk, fun i hs hd => ?emptyOk, fun w rest f hs hd => ?pendingErr,
    fun f hs hd => ?emptyErr⟩
  case pendingOk =>
    rw [← nextInput_of_pending hs] at hd
    rw [step_of_decode_ok hd, present_of_pending hs]
  case emptyOk =>
    rw [← nextInput_of_empty hs] at hd
    rw [step_of_decode_ok hd, present_of_empty hs]
  case pendingErr =>
    rw [← nextInput_of_pending hs] at hd
    rw [step_of_decode_err hd, present_of_pending hs]
  case emptyErr =>
    rw [← nextInput_of_empty hs] at hd
    rw [step_of_decode_err hd, present_of_empty hs]

end Sys2Proof
